-- ==== Sys2Proof/Word.lean ====
section
/-! DEFINITION. The word types of the machine: nothing else rests on more than these widths. -/

namespace Sys2Proof

/-- A register, `ip` or datapath value: an unsigned `XLEN`-bit value (00_scope.md R7, 10_state.md R20). -/
abbrev Word (xlen : Nat) := BitVec xlen

/-- One 32-bit field of an instruction word, `OPW = 32` (00_scope.md R12, 30_encoding.md R65). -/
abbrev Field := BitVec 32

/-- One instruction word of the only format, `W128` (30_encoding.md R65). -/
abbrev InstrWord := BitVec 128

/-- One byte of a program image kept outside the block (20_memory.md R50). -/
abbrev Byte := BitVec 8

/-- `2^XLEN - 1`, the largest value of a register or of `ip` (10_state.md R25). -/
abbrev maxWord (xlen : Nat) : Word xlen := BitVec.allOnes xlen

end Sys2Proof
end

