-- ==== Sys2Proof/Syntax.lean ====
section
/-! DEFINITION. The syntax: one constructor per row of spec/opcode_table.json, in the table's order. -/

namespace Sys2Proof

/-- An instruction: an opcode and its three operand slots `A`, `B`, `C` (30_encoding.md R63), each the 32-bit field of
the encoded word (R65). The opcode alone says how `A` and `B` are read; `C` always names the register written (R64).
Every value of every slot is a legal instruction (R78), so every term of this type is well formed. An unused slot is
kept, since an encoding holds it (R71). -/
inductive Instr where
  /-- `addr a b c` (add, register/register): R90. -/
  | addr (a b c : Field)
  /-- `addi a b c` (add, register/immediate): R91. -/
  | addi (a b c : Field)
  /-- `mulr a b c` (multiply, register/register): R92. -/
  | mulr (a b c : Field)
  /-- `muli a b c` (multiply, register/immediate): R93. -/
  | muli (a b c : Field)
  /-- `banr a b c` (bitwise AND, register/register): R95. -/
  | banr (a b c : Field)
  /-- `bani a b c` (bitwise AND, register/immediate): R96. -/
  | bani (a b c : Field)
  /-- `borr a b c` (bitwise OR, register/register): R97. -/
  | borr (a b c : Field)
  /-- `bori a b c` (bitwise OR, register/immediate): R98. -/
  | bori (a b c : Field)
  /-- `setr a b c` (set from register, `b` unused): R100. -/
  | setr (a b c : Field)
  /-- `seti a b c` (set from immediate, `b` unused): R101. -/
  | seti (a b c : Field)
  /-- `gtir a b c` (greater-than, immediate>register): R103. -/
  | gtir (a b c : Field)
  /-- `gtri a b c` (greater-than, register>immediate): R104. -/
  | gtri (a b c : Field)
  /-- `gtrr a b c` (greater-than, register>register): R105. -/
  | gtrr (a b c : Field)
  /-- `eqir a b c` (equal, immediate==register): R107. -/
  | eqir (a b c : Field)
  /-- `eqri a b c` (equal, register==immediate): R108. -/
  | eqri (a b c : Field)
  /-- `eqrr a b c` (equal, register==register): R109. -/
  | eqrr (a b c : Field)
  deriving DecidableEq, Repr

end Sys2Proof
end

