-- ==== Sys2Proof/Opcode.lean ====
section
/-! DEFINITION. The records around the instruction: the opcode as a name of its own (the decoder's and the loader's),
the instruction as the source writes it, with unbounded operands, and the program. -/

namespace Sys2Proof

/-- The closed set of 16 opcodes (30_encoding.md R67, R88). -/
inductive Opcode where
  | addr | addi | mulr | muli | banr | bani | borr | bori
  | setr | seti | gtir | gtri | gtrr | eqir | eqri | eqrr
  deriving DecidableEq, Repr

/-- The instruction record of the source, before encoding: "All three operand slots are plain non-negative integers",
with no upper bound (30_encoding.md R63, R66). Only the loader meets one. -/
structure SourceInstr where
  opcode : Opcode
  inputA : Nat
  inputB : Nat
  output : Nat
  deriving DecidableEq, Repr

/-- A program as the block is given it: its instruction words in order and the optional binding of `ip` to a register.
`N` is the number of words (00_scope.md R9, R10; 10_state.md R28, R29). A binding index is any 32-bit value,
unchecked at load (R29). -/
structure Program where
  words : List InstrWord
  ipr : Option Field
  deriving DecidableEq, Repr

end Sys2Proof
end

