-- ==== Sys2Proof/Decode.lean ====
section
/-! DEFINITION. The decoder and the encoder: fields of an instruction word, opcode numbers, `decode` (total, rejecting by
name), `encode`, and the little-endian byte image of a word outside the block. -/

namespace Sys2Proof

/-- The mnemonics' opcode numbers (30_encoding.md R67; 92_eei_decisions.md D7). -/
def Opcode.code : Opcode → Field
  | .addr => 0
  | .addi => 1
  | .mulr => 2
  | .muli => 3
  | .banr => 4
  | .bani => 5
  | .borr => 6
  | .bori => 7
  | .setr => 8
  | .seti => 9
  | .gtir => 10
  | .gtri => 11
  | .gtrr => 12
  | .eqir => 13
  | .eqri => 14
  | .eqrr => 15

/-- The opcode a number stands for; none for 16 and above (30_encoding.md R67, R77). -/
def Opcode.ofCode (v : Field) : Option Opcode :=
  match v.toNat with
  | 0 => some .addr
  | 1 => some .addi
  | 2 => some .mulr
  | 3 => some .muli
  | 4 => some .banr
  | 5 => some .bani
  | 6 => some .borr
  | 7 => some .bori
  | 8 => some .setr
  | 9 => some .seti
  | 10 => some .gtir
  | 11 => some .gtri
  | 12 => some .gtrr
  | 13 => some .eqir
  | 14 => some .eqri
  | 15 => some .eqrr
  | _ => none

/-- "a pure function returning an immutable ordered list of variants" (30_encoding.md R87). -/
def Opcode.all : List Opcode :=
  [.addr, .addi, .mulr, .muli, .banr, .bani, .borr, .bori,
   .setr, .seti, .gtir, .gtri, .gtrr, .eqir, .eqri, .eqrr]

/-- The instruction with opcode `op` and the three slots. -/
def Instr.ofFields (op : Opcode) (a b c : Field) : Instr :=
  match op with
  | .addr => .addr a b c
  | .addi => .addi a b c
  | .mulr => .mulr a b c
  | .muli => .muli a b c
  | .banr => .banr a b c
  | .bani => .bani a b c
  | .borr => .borr a b c
  | .bori => .bori a b c
  | .setr => .setr a b c
  | .seti => .seti a b c
  | .gtir => .gtir a b c
  | .gtri => .gtri a b c
  | .gtrr => .gtrr a b c
  | .eqir => .eqir a b c
  | .eqri => .eqri a b c
  | .eqrr => .eqrr a b c

/-- The opcode of an instruction (30_encoding.md R63). -/
def Instr.opcode : Instr → Opcode
  | .addr _ _ _ => .addr
  | .addi _ _ _ => .addi
  | .mulr _ _ _ => .mulr
  | .muli _ _ _ => .muli
  | .banr _ _ _ => .banr
  | .bani _ _ _ => .bani
  | .borr _ _ _ => .borr
  | .bori _ _ _ => .bori
  | .setr _ _ _ => .setr
  | .seti _ _ _ => .seti
  | .gtir _ _ _ => .gtir
  | .gtri _ _ _ => .gtri
  | .gtrr _ _ _ => .gtrr
  | .eqir _ _ _ => .eqir
  | .eqri _ _ _ => .eqri
  | .eqrr _ _ _ => .eqrr

/-- Slot `A`, `input_a` (30_encoding.md R63). -/
def Instr.slotA : Instr → Field
  | .addr a _ _ | .addi a _ _ | .mulr a _ _ | .muli a _ _
  | .banr a _ _ | .bani a _ _ | .borr a _ _ | .bori a _ _
  | .setr a _ _ | .seti a _ _ | .gtir a _ _ | .gtri a _ _
  | .gtrr a _ _ | .eqir a _ _ | .eqri a _ _ | .eqrr a _ _ => a

/-- Slot `B`, `input_b` (30_encoding.md R63). -/
def Instr.slotB : Instr → Field
  | .addr _ b _ | .addi _ b _ | .mulr _ b _ | .muli _ b _
  | .banr _ b _ | .bani _ b _ | .borr _ b _ | .bori _ b _
  | .setr _ b _ | .seti _ b _ | .gtir _ b _ | .gtri _ b _
  | .gtrr _ b _ | .eqir _ b _ | .eqri _ b _ | .eqrr _ b _ => b

/-- Slot `C`, `output` (30_encoding.md R63). -/
def Instr.slotC : Instr → Field
  | .addr _ _ c | .addi _ _ c | .mulr _ _ c | .muli _ _ c
  | .banr _ _ c | .bani _ _ c | .borr _ _ c | .bori _ _ c
  | .setr _ _ c | .seti _ _ c | .gtir _ _ c | .gtri _ _ c
  | .gtrr _ _ c | .eqir _ _ c | .eqri _ _ c | .eqrr _ _ c => c

/-- `OP`, bits [31:0] (30_encoding.md R65). -/
def opField (w : InstrWord) : Field := w.extractLsb' 0 32

/-- `A`, bits [63:32] (30_encoding.md R65). -/
def aField (w : InstrWord) : Field := w.extractLsb' 32 32

/-- `B`, bits [95:64] (30_encoding.md R65). -/
def bField (w : InstrWord) : Field := w.extractLsb' 64 32

/-- `C`, bits [127:96] (30_encoding.md R65). -/
def cField (w : InstrWord) : Field := w.extractLsb' 96 32

/-- Why a decoder answers no instruction. -/
inductive DecodeError where
  /-- The word's `OP` field is 16 or more (30_encoding.md R77). -/
  | illegalOpcode (op : Field)
  /-- A byte image ends before the 16 bytes of a word; raised on images outside the block only (20_memory.md R50). -/
  | truncated (bytesLeft : Nat)
  deriving DecidableEq, Repr

/-- The decoder: the instruction a word holds, or `ILLEGAL` with its `OP` (30_encoding.md R72, R77, R78). -/
def decode (w : InstrWord) : Except DecodeError Instr :=
  match Opcode.ofCode (opField w) with
  | some op => .ok (Instr.ofFields op (aField w) (bField w) (cField w))
  | none => .error (.illegalOpcode (opField w))

/-- The word with these four fields, `{C, B, A, OP}` (30_encoding.md R65, R85). -/
def wordOfFields (op a b c : Field) : InstrWord := c ++ b ++ a ++ op

/-- The encoder: the one word of an instruction (30_encoding.md R85). -/
def encode (i : Instr) : InstrWord := wordOfFields i.opcode.code i.slotA i.slotB i.slotC

/-- The 16 bytes of a word in storage outside the block: byte `j` holds bits `[8j+7:8j]` (20_memory.md R50). -/
def bytesOfWord (w : InstrWord) : List Byte := (List.range 16).map fun j => w.extractLsb' (8 * j) 8

/-- The word whose bytes these are, the first the least significant (20_memory.md R50). -/
def wordOfBytes (bs : List Byte) : InstrWord :=
  bs.foldr (fun b rest => (rest <<< 8) ||| b.setWidth 128) 0

/-- Decode the first instruction of a byte image and answer the bytes that remain (20_memory.md R50, 30_encoding.md R79). -/
def decodeBytes (bs : List Byte) : Except DecodeError (Instr × List Byte) :=
  if bs.length < 16 then .error (.truncated bs.length)
  else
    match decode (wordOfBytes (bs.take 16)) with
    | .ok i => .ok (i, bs.drop 16)
    | .error e => .error e

/-- The 16 bytes of an instruction in a program image (20_memory.md R50, 30_encoding.md R85). -/
def encodeBytes (i : Instr) : List Byte := bytesOfWord (encode i)

/-- The word whose lowest `nbits` bits are those of `w`, every bit above them 0. -/
def tableWord (nbits w : Nat) : InstrWord := BitVec.ofNat 128 (w % 2 ^ nbits)

/-- The instruction this decoder reads from a table word laid out as bytes, lowest byte first; none where it refuses. -/
def decodeTableWord (nbits w : Nat) : Option Instr :=
  match decodeBytes (bytesOfWord (tableWord nbits w)) with
  | .ok (i, _) => some i
  | .error _ => none

end Sys2Proof
end

