-- ==== Sys2Proof/Config.lean ====
section
/-! DEFINITION. What one instance of the block fixes for its lifetime: the parameters `XLEN`, `NREG` and
`OVERFLOW_MODE` of 00_scope.md. They stand in State, so that every statement quantifies over them. -/

namespace Sys2Proof

/-- `OVERFLOW_MODE`: what `add` and `multiply` do when the exact result does not fit (00_scope.md R11). -/
inductive OverflowMode where
  /-- The instruction raises `ArithmeticOverflow`. -/
  | fault
  /-- The result is the exact one modulo `2^XLEN`. -/
  | wrap
  deriving DecidableEq, Repr

/-- The parameters of an instance (00_scope.md R7, R8, R11). No step and no RESET changes them. -/
structure Config where
  /-- `XLEN`, the width of every register, of `ip` and of the datapath. -/
  xlen : Nat
  /-- `NREG`, the number of registers. -/
  nreg : Nat
  /-- `OVERFLOW_MODE`. -/
  overflow : OverflowMode
  deriving DecidableEq, Repr

/-- The configuration of the block in `State.reset`: the spec's defaults `XLEN = 64` (R7) and
`OVERFLOW_MODE = fault` (R11), and `NREG = 4`.
DESIGN CHOICE, unsafe: the spec gives `NREG` no default, and 4 is its worked example's (notes/assumptions/2.md). -/
def Config.standard : Config := { xlen := 64, nreg := 4, overflow := .fault }

end Sys2Proof
end

