-- ==== Sys2Proof/Machine/State.lean ====
section
/-! DEFINITION. The state of the block: plain data, holding everything 10_state.md gives the machine, the events that
left it and the answers that will enter it; the reasons a step can stop; the state after reset. -/

namespace Sys2Proof.Machine

/-- `STATE` (10_state.md R30). `halted`, `stopped` and `faulted` are terminal (R31). -/
inductive Status where
  /-- The loop is running. -/
  | running
  /-- The natural halt: `ip` no longer addresses an instruction, and the halt event has fired. -/
  | halted
  /-- The debugger's stop request ended the run. -/
  | stopped
  /-- A fault aborted the run. -/
  | faulted
  deriving DecidableEq, Repr

/-- `FAULT_CAUSE` (60_exceptions.md R132). Codes 5 to 15 are reserved and never raised, so no value stands for them
(DEDUCED, safe: notes/assumptions/11.md). -/
inductive FaultCause where
  | noFault | registerIndexOutOfRange | illegalInstruction | arithmeticOverflow | ipOverflow
  deriving DecidableEq, Repr

/-- The debugger's answer to one step event (10_state.md R40): `proceed` is the spec's `continue`. -/
inductive StopAnswer where
  | proceed | stop
  deriving DecidableEq, Repr

/-- `STEP_EV(ip, pre, post)` (10_state.md R39). Values leave the block as unsigned integers (00_scope.md R15). -/
structure StepEvent where
  ip : Nat
  pre : List Nat
  post : List Nat
  deriving DecidableEq, Repr

/-- What the block emits: `STEP_EV`, `HALT_EV(ip)` and `FAULT_EV(cause, ip, info)` (10_state.md R39, R41, R42). -/
inductive Event where
  | step (e : StepEvent)
  | halt (ip : Nat)
  | fault (cause : BitVec 4) (ip info : Nat)
  deriving DecidableEq, Repr

/-- The block of an instance with parameters `cfg`: registers and `ip` are `XLEN` bits wide and there are `NREG`
registers, by their types. -/
structure Block (cfg : Config) where
  /-- The program store and the binding `IPR`; `CFG_N`, `CFG_IPR_EN`, `CFG_IPR_IDX` (10_state.md R28, R29, R35). -/
  prog : Program
  /-- The register file `R[0]` to `R[NREG-1]` (10_state.md R20). -/
  regs : Vector (Word cfg.xlen) cfg.nreg
  /-- The instruction pointer, counted in instructions (10_state.md R25, R26). -/
  ip : Word cfg.xlen
  /-- `STATE` (10_state.md R30). -/
  status : Status
  /-- `FAULT_CAUSE` (10_state.md R32). -/
  faultCause : FaultCause
  /-- `FAULT_IP` (10_state.md R32). -/
  faultIp : Word cfg.xlen
  /-- `FAULT_INFO` (10_state.md R32). -/
  faultInfo : Word cfg.xlen
  /-- The model's own: the answers the STOP input will still give, next one first; `continue` once it is exhausted
  (notes/assumptions/6.md). -/
  stopInput : List StopAnswer
  /-- The model's own: the events emitted since the last RESET, newest first (notes/assumptions/7.md). -/
  events : List Event
  /-- The model's own: the events emitted before the last RESET, newest first (notes/assumptions/7.md). -/
  earlier : List Event
  deriving DecidableEq, Repr

/-- The whole state: an instance's parameters, `CFG_NREG` among them, and its block. -/
structure State where
  cfg : Config
  block : Block cfg
  deriving DecidableEq, Repr

/-- Why the machine stops with no next state. A fault of the spec is no such stop: fault entry is a next state
(60_exceptions.md R131). -/
inductive Fault where
  /-- Raised by `step` alone: `STATE` is terminal, so no step is enabled and only RESET leaves it (10_state.md R31;
  93_implementation_defined.md I16 "stuck"). Safe: nothing is claimed of a step the block does not take. -/
  | stepNotEnabled (status : Status)
  deriving DecidableEq, Repr

/-- Why an instruction has no meaning. Nothing raises one: every instruction of the opcode table has its meaning. -/
inductive Refusal where
  /-- Raised by a rejected arm of `exec` only; there is none. Safe: nothing is claimed of the instruction. -/
  | notModelled (mnemonic : String)
  deriving DecidableEq, Repr

/-- The machine right after reset (70_reset_and_hazards.md R153) with nothing loaded: `ip = 0`, `RUNNING`, an empty fault
record, no event emitted (R154). What the spec takes from the caller holds the model's named values: the standard
configuration, registers zero, no program, no binding, a debugger that always continues
(DESIGN CHOICE, unsafe: notes/assumptions/2.md, 3.md, 5.md, 6.md). -/
def State.reset : State where
  cfg := Config.standard
  block :=
    { prog := { words := [], ipr := none }
      regs := Vector.replicate Config.standard.nreg 0
      ip := 0
      status := .running
      faultCause := .noFault
      faultIp := 0
      faultInfo := 0
      stopInput := []
      events := []
      earlier := [] }

end Sys2Proof.Machine
end

