-- ==== Sys2Proof/Machine/Ops.lean ====
section
/-! DEFINITION. The named operations over the block: events, fault entry, the register ports, and running one
instruction's effect. The hardware has no return from an exception: FAULTED is left by RESET only (60_exceptions.md R141). -/

namespace Sys2Proof.Machine

/-- What `raise E(info)` names (00_scope.md R16; 60_exceptions.md R132), with the operand the cause records. -/
inductive Raise where
  | registerIndexOutOfRange (index : Field)
  | illegalInstruction (op : Field)
  /-- `s` is the exact sum or product. -/
  | arithmeticOverflow (s : Nat)
  | ipOverflow (ip : Nat)
  deriving DecidableEq, Repr

/-- The 4-bit code of a cause (60_exceptions.md R132). -/
def FaultCause.code : FaultCause → BitVec 4
  | .noFault => 0
  | .registerIndexOutOfRange => 1
  | .illegalInstruction => 2
  | .arithmeticOverflow => 3
  | .ipOverflow => 4

/-- The cause a raise records (60_exceptions.md R132). -/
def Raise.cause : Raise → FaultCause
  | .registerIndexOutOfRange _ => .registerIndexOutOfRange
  | .illegalInstruction _ => .illegalInstruction
  | .arithmeticOverflow _ => .arithmeticOverflow
  | .ipOverflow _ => .ipOverflow

/-- `FAULT_INFO` of a raise: the index or `OP` zero-extended, the low `XLEN` bits of the exact result, or the `ip`
(60_exceptions.md R132). -/
def Raise.info (xlen : Nat) : Raise → Word xlen
  | .registerIndexOutOfRange index => index.setWidth xlen
  | .illegalInstruction op => op.setWidth xlen
  | .arithmeticOverflow s => BitVec.ofNat xlen s
  | .ipOverflow ip => BitVec.ofNat xlen ip

/-- The result of work that may raise (00_scope.md R16: "Nothing the step would do after the `raise` happens"). -/
abbrev Attempt (α : Type) := Except Raise α

variable {cfg : Config}

/-- Emit an event. -/
def Block.emit (m : Block cfg) (e : Event) : Block cfg := { m with events := e :: m.events }

/-- Fault entry (60_exceptions.md R131): the record is written, `FAULT_EV` emitted, `ip` and the registers stay. -/
def Block.takeFault (m : Block cfg) (r : Raise) : Block cfg :=
  { m with
    status := .faulted
    faultCause := r.cause
    faultIp := m.ip
    faultInfo := r.info cfg.xlen
    events := .fault r.cause.code m.ip.toNat (r.info cfg.xlen).toNat :: m.events }

/-- The snapshot of the whole register file, as unsigned integers (10_state.md R23, R38). -/
def Block.snapshot (m : Block cfg) : List Nat := m.regs.toList.map BitVec.toNat

/-- The range check every register access makes (00_scope.md R16; 60_exceptions.md R133). -/
def Block.checkReg (_ : Block cfg) (i : Field) : Attempt Unit :=
  if i.toNat < cfg.nreg then .ok () else .error (.registerIndexOutOfRange i)

/-- `x[i]` read, `RegRead` (00_scope.md R16). -/
def Block.readReg (m : Block cfg) (i : Field) : Attempt (Word cfg.xlen) :=
  if h : i.toNat < cfg.nreg then .ok m.regs[i.toNat] else .error (.registerIndexOutOfRange i)

/-- `x[i] <- v`, `RegWrite` (00_scope.md R16). -/
def Block.writeReg (m : Block cfg) (i : Field) (v : Word cfg.xlen) : Attempt (Block cfg) :=
  if h : i.toNat < cfg.nreg then .ok { m with regs := m.regs.set i.toNat v h }
  else .error (.registerIndexOutOfRange i)

/-- Run an instruction's work on the block: the block it leaves, or fault entry on the block as it was, since an
instruction's only write comes last (60_exceptions.md R131). Both are next states. -/
def State.perform (s : State) (work : Block s.cfg → Attempt (Block s.cfg)) : Host.Outcome State Fault Refusal :=
  match work s.block with
  | .ok m => .next { cfg := s.cfg, block := m }
  | .error r => .next { cfg := s.cfg, block := s.block.takeFault r }

end Sys2Proof.Machine
end

