-- ==== Sys2Proof/Machine/Flags.lean ====
section
/-! DEFINITION. The results of the seven functions. The hardware has no flags (10_state.md R33): overflow raises or wraps
(40_arithmetic.md R89), and a comparison's truth value is a register result (43_compare_gt.md R102, 44_compare_eq.md R106). -/

namespace Sys2Proof.Machine

/-- `Fit(s)`: the exact result where it fits, else what `OVERFLOW_MODE` says (40_arithmetic.md R89, 30_encoding.md R74). -/
def fit (cfg : Config) (s : Nat) : Attempt (Word cfg.xlen) :=
  if s < 2 ^ cfg.xlen then .ok (BitVec.ofNat cfg.xlen s)
  else
    match cfg.overflow with
    | .fault => .error (.arithmeticOverflow s)
    | .wrap => .ok (BitVec.ofNat cfg.xlen s)

/-- `bool(p)`: 1 if `p` holds and 0 if not (00_scope.md R15). -/
def boolWord (xlen : Nat) (p : Bool) : Word xlen := BitVec.ofNat xlen p.toNat

/-- `ADD`: the exact sum, fitted (40_arithmetic.md R89). -/
def resultAdd (cfg : Config) (va vb : Word cfg.xlen) : Attempt (Word cfg.xlen) := fit cfg (va.toNat + vb.toNat)

/-- `MUL`: the exact product, fitted (40_arithmetic.md R89). -/
def resultMul (cfg : Config) (va vb : Word cfg.xlen) : Attempt (Word cfg.xlen) := fit cfg (va.toNat * vb.toNat)

/-- `AND`, bit by bit (41_bitwise.md R94). -/
def resultAnd (cfg : Config) (va vb : Word cfg.xlen) : Attempt (Word cfg.xlen) := .ok (va &&& vb)

/-- `OR`, bit by bit (41_bitwise.md R94). -/
def resultOr (cfg : Config) (va vb : Word cfg.xlen) : Attempt (Word cfg.xlen) := .ok (va ||| vb)

/-- `PASS_A` (42_assignment.md R100, R101). -/
def resultPassA (cfg : Config) (va _vb : Word cfg.xlen) : Attempt (Word cfg.xlen) := .ok va

/-- `GT`, unsigned and strict (43_compare_gt.md R102). -/
def resultGt (cfg : Config) (va vb : Word cfg.xlen) : Attempt (Word cfg.xlen) :=
  .ok (boolWord cfg.xlen (decide (va.toNat > vb.toNat)))

/-- `EQ`, on all `XLEN` bits (44_compare_eq.md R106). -/
def resultEq (cfg : Config) (va vb : Word cfg.xlen) : Attempt (Word cfg.xlen) :=
  .ok (boolWord cfg.xlen (decide (va.toNat = vb.toNat)))

end Sys2Proof.Machine
end

