-- ==== Sys2Proof/Machine/Operands.lean ====
section
/-! DEFINITION. The operand forms (30_encoding.md R69 to R71) and the order in which an instruction reads its operands,
checks its destination, computes and writes (R73, R74). -/

namespace Sys2Proof.Machine

/-- How a slot is read: as a register, as an immediate, or not at all (30_encoding.md R68). -/
inductive Operand where
  | reg (i : Field)
  | imm (v : Field)
  | unused
  deriving DecidableEq, Repr

/-- `zext_XLEN(field)`: an immediate is never sign-extended, scaled or shifted (30_encoding.md R69). -/
def zext (xlen : Nat) (v : Field) : Word xlen := v.setWidth xlen

variable {cfg : Config}

/-- The value of an operand. Only a register operand is range-checked (30_encoding.md R70, R71); an unused one is
neither read nor checked and stands as 0 (R73). -/
def Block.operand (m : Block cfg) : Operand → Attempt (Word cfg.xlen)
  | .reg i => m.readReg i
  | .imm v => .ok (zext cfg.xlen v)
  | .unused => .ok 0

/-- One instruction: read `A`, read `B`, check `C`, compute, write `C`, in this order (30_encoding.md R73, R74). The reads
come before the write, so an instruction whose `C` is also a source reads the old value. -/
def Block.compute (m : Block cfg) (a b : Operand) (c : Field)
    (f : Word cfg.xlen → Word cfg.xlen → Attempt (Word cfg.xlen)) : Attempt (Block cfg) := do
  let va ← m.operand a
  let vb ← m.operand b
  m.checkReg c
  let result ← f va vb
  m.writeReg c result

end Sys2Proof.Machine
end

