-- ==== Sys2Proof/Machine/Arithmetic.lean ====
section
/-! DEFINITION. The arithmetic family (40_arithmetic.md): add and multiply, register or immediate right operand. -/

namespace Sys2Proof.Machine

/-- `addr a b c`: `x[c] <- Fit(x[a] + x[b])` (40_arithmetic.md R90). -/
def execAddr (a b c : Field) (s : State) : Host.Outcome State Fault Refusal :=
  s.perform fun m => m.compute (.reg a) (.reg b) c (resultAdd s.cfg)

/-- `addi a b c`: `x[c] <- Fit(x[a] + zext(b))` (40_arithmetic.md R91). -/
def execAddi (a b c : Field) (s : State) : Host.Outcome State Fault Refusal :=
  s.perform fun m => m.compute (.reg a) (.imm b) c (resultAdd s.cfg)

/-- `mulr a b c`: `x[c] <- Fit(x[a] * x[b])` (40_arithmetic.md R92). -/
def execMulr (a b c : Field) (s : State) : Host.Outcome State Fault Refusal :=
  s.perform fun m => m.compute (.reg a) (.reg b) c (resultMul s.cfg)

/-- `muli a b c`: `x[c] <- Fit(x[a] * zext(b))` (40_arithmetic.md R93). -/
def execMuli (a b c : Field) (s : State) : Host.Outcome State Fault Refusal :=
  s.perform fun m => m.compute (.reg a) (.imm b) c (resultMul s.cfg)

end Sys2Proof.Machine
end

