-- ==== Sys2Proof/Machine/Assignment.lean ====
section
/-! DEFINITION. The assignment family (42_assignment.md): the `B` slot is not read, checked or written (R99). -/

namespace Sys2Proof.Machine

/-- `setr a b c`: `x[c] <- x[a]` (42_assignment.md R100). -/
def execSetr (a _b c : Field) (s : State) : Host.Outcome State Fault Refusal :=
  s.perform fun m => m.compute (.reg a) .unused c (resultPassA s.cfg)

/-- `seti a b c`: `x[c] <- zext(a)` (42_assignment.md R101). -/
def execSeti (a _b c : Field) (s : State) : Host.Outcome State Fault Refusal :=
  s.perform fun m => m.compute (.imm a) .unused c (resultPassA s.cfg)

end Sys2Proof.Machine
end

