-- ==== Sys2Proof/Machine/Bitwise.lean ====
section
/-! DEFINITION. The bitwise family (41_bitwise.md): AND and OR, register or immediate right operand. -/

namespace Sys2Proof.Machine

/-- `banr a b c`: `x[c] <- x[a] & x[b]` (41_bitwise.md R95). -/
def execBanr (a b c : Field) (s : State) : Host.Outcome State Fault Refusal :=
  s.perform fun m => m.compute (.reg a) (.reg b) c (resultAnd s.cfg)

/-- `bani a b c`: `x[c] <- x[a] & zext(b)` (41_bitwise.md R96). -/
def execBani (a b c : Field) (s : State) : Host.Outcome State Fault Refusal :=
  s.perform fun m => m.compute (.reg a) (.imm b) c (resultAnd s.cfg)

/-- `borr a b c`: `x[c] <- x[a] | x[b]` (41_bitwise.md R97). -/
def execBorr (a b c : Field) (s : State) : Host.Outcome State Fault Refusal :=
  s.perform fun m => m.compute (.reg a) (.reg b) c (resultOr s.cfg)

/-- `bori a b c`: `x[c] <- x[a] | zext(b)` (41_bitwise.md R98). -/
def execBori (a b c : Field) (s : State) : Host.Outcome State Fault Refusal :=
  s.perform fun m => m.compute (.reg a) (.imm b) c (resultOr s.cfg)

end Sys2Proof.Machine
end

