-- ==== Sys2Proof/Machine/CompareEq.lean ====
section
/-! DEFINITION. The equality family (44_compare_eq.md). -/

namespace Sys2Proof.Machine

/-- `eqir a b c`: `x[c] <- bool(zext(a) == x[b])` (44_compare_eq.md R107). -/
def execEqir (a b c : Field) (s : State) : Host.Outcome State Fault Refusal :=
  s.perform fun m => m.compute (.imm a) (.reg b) c (resultEq s.cfg)

/-- `eqri a b c`: `x[c] <- bool(x[a] == zext(b))` (44_compare_eq.md R108). -/
def execEqri (a b c : Field) (s : State) : Host.Outcome State Fault Refusal :=
  s.perform fun m => m.compute (.reg a) (.imm b) c (resultEq s.cfg)

/-- `eqrr a b c`: `x[c] <- bool(x[a] == x[b])` (44_compare_eq.md R109). -/
def execEqrr (a b c : Field) (s : State) : Host.Outcome State Fault Refusal :=
  s.perform fun m => m.compute (.reg a) (.reg b) c (resultEq s.cfg)

end Sys2Proof.Machine
end

