-- ==== Sys2Proof/Machine/CompareGt.lean ====
section
/-! DEFINITION. The greater-than family (43_compare_gt.md). -/

namespace Sys2Proof.Machine

/-- `gtir a b c`: `x[c] <- bool(zext(a) > x[b])` (43_compare_gt.md R103). -/
def execGtir (a b c : Field) (s : State) : Host.Outcome State Fault Refusal :=
  s.perform fun m => m.compute (.imm a) (.reg b) c (resultGt s.cfg)

/-- `gtri a b c`: `x[c] <- bool(x[a] > zext(b))` (43_compare_gt.md R104). -/
def execGtri (a b c : Field) (s : State) : Host.Outcome State Fault Refusal :=
  s.perform fun m => m.compute (.reg a) (.imm b) c (resultGt s.cfg)

/-- `gtrr a b c`: `x[c] <- bool(x[a] > x[b])` (43_compare_gt.md R105). -/
def execGtrr (a b c : Field) (s : State) : Host.Outcome State Fault Refusal :=
  s.perform fun m => m.compute (.reg a) (.reg b) c (resultGt s.cfg)

end Sys2Proof.Machine
end

