-- ==== Sys2Proof/Machine/Ports.lean ====
section
/-! DEFINITION. The external interface, one operation per port: REGS_OUT, CSR_OUT and RESET (10_state.md R38, R43, R44).
The event outputs are `Block.events`; the STOP input is sampled in the loop. -/

namespace Sys2Proof.Machine

/-- The encoding of `STATE` (10_state.md R30). -/
def Status.code : Status → BitVec 2
  | .running => 0
  | .halted => 1
  | .stopped => 2
  | .faulted => 3

/-- `REGS_OUT`: a copy of all registers, at any time, without effect (10_state.md R38). -/
def State.regsOut (s : State) : List Nat := s.block.snapshot

/-- The STATUS register: `STATE` in bits [1:0], `FAULT_CAUSE` in bits [7:4], all else 0 (10_state.md R35). -/
def State.statusWord (s : State) : Word s.cfg.xlen :=
  (s.block.faultCause.code ++ (0 : BitVec 2) ++ s.block.status.code).setWidth s.cfg.xlen

/-- `CSR_OUT(index)`: the block register with that index, 0 above 7 (10_state.md R35, R44). No rule says what a count
reads that does not fit `XLEN` bits; the model reads it modulo `2^XLEN`: `CFG_NREG` where `NREG >= 2^XLEN` (DESIGN CHOICE,
unsafe: notes/assumptions/22.md) and `CFG_N` past the loader's bound on `N` (notes/assumptions/19.md). -/
def State.csrOut (s : State) (index : Nat) : Word s.cfg.xlen :=
  match index with
  | 0 => s.statusWord
  | 1 => s.block.ip
  | 2 => s.block.faultIp
  | 3 => s.block.faultInfo
  | 4 => BitVec.ofNat s.cfg.xlen s.block.prog.words.length
  | 5 => BitVec.ofNat s.cfg.xlen s.block.prog.ipr.isSome.toNat
  | 6 => (s.block.prog.ipr.getD 0).setWidth s.cfg.xlen
  | 7 => BitVec.ofNat s.cfg.xlen s.cfg.nreg
  | _ => 0

/-- The state at the start of a run of a new instance: the caller's program, registers and debugger answers
(70_reset_and_hazards.md R153, R159; 00_scope.md R13, R14). -/
def State.launch (cfg : Config) (prog : Program) (initRegs : Vector (Word cfg.xlen) cfg.nreg)
    (answers : List StopAnswer) : State where
  cfg := cfg
  block :=
    { prog := prog
      regs := initRegs
      ip := 0
      status := .running
      faultCause := .noFault
      faultIp := 0
      faultInfo := 0
      stopInput := answers
      events := []
      earlier := [] }

/-- `RESET(PROG, N, IPR, INIT_REGS)`, allowed in any `STATE` (70_reset_and_hazards.md R153, R154): the instance's
parameters stay, no event is emitted, and "Events already emitted are not withdrawn". The STOP input is no operand of
RESET and stays (DEDUCED, notes/assumptions/7.md). -/
def State.resetInput (s : State) (prog : Program) (initRegs : Vector (Word s.cfg.xlen) s.cfg.nreg) : State where
  cfg := s.cfg
  block :=
    { (State.launch s.cfg prog initRegs s.block.stopInput).block with
      earlier := s.block.events ++ s.block.earlier }

end Sys2Proof.Machine
end

