-- ==== Sys2Proof/Machine/Loop.lean ====
section
/-! DEFINITION. The execution loop (45_execution_loop.md R110): the numbered parts of one step, and their order. -/

namespace Sys2Proof.Machine

variable {cfg : Config}

/-- Step 1: with a binding, write `ip` into the bound register; this may raise (45_execution_loop.md R111). -/
def Block.mirrorIp (m : Block cfg) : Attempt (Block cfg) :=
  match m.prog.ipr with
  | none => .ok m
  | some p => m.writeReg p m.ip

/-- `Fetch(ip)`: the word at index `ip`, none where `ip >= N` (45_execution_loop.md R112, R113; 20_memory.md R55). -/
def Block.fetch (m : Block cfg) : Option InstrWord := m.prog.words[m.ip.toNat]?

/-- Step 3, the natural halt: `STATE <- HALTED` and `HALT_EV(ip)`, nothing else (45_execution_loop.md R112). -/
def Block.halt (m : Block cfg) : Block cfg := { m.emit (.halt m.ip.toNat) with status := .halted }

/-- Step 4: the `ip` the increment starts from (45_execution_loop.md R114). -/
def Block.readBack (m : Block cfg) : Attempt (Word cfg.xlen) :=
  match m.prog.ipr with
  | none => .ok m.ip
  | some p => m.readReg p

/-- Step 5: `v + 1`, or `IpOverflow(v)` from the largest value, in both overflow modes (45_execution_loop.md R115, R116). -/
def nextIp (v : Word cfg.xlen) : Attempt (Word cfg.xlen) :=
  if v = maxWord cfg.xlen then .error (.ipOverflow v.toNat) else .ok (v + 1)

/-- Steps 4 and 5. A fault leaves `ip` at the executed instruction (60_exceptions.md R131). -/
def Block.advance (m : Block cfg) : Block cfg :=
  match m.readBack >>= nextIp with
  | .ok ip => { m with ip := ip }
  | .error r => m.takeFault r

/-- Where the answer to a step event comes from: the answers still waiting on the STOP input and the events emitted in
this run, newest first (00_scope.md R14, 10_state.md R40). -/
abbrev StopSource := List StopAnswer → List Event → StopAnswer

/-- The source that is plain data of the state: the next answer on the STOP input, `continue` once it is exhausted
(notes/assumptions/6.md). -/
def queuedStop : StopSource := fun answers _ => answers.headD .proceed

/-- The end of a step whose instruction completed: emit `STEP_EV(k, pre, post)`, sample STOP once, then either stop with
`ip = k` or do steps 4 and 5 (45_execution_loop.md R110, R117, R118). -/
def Block.complete (m : Block cfg) (source : StopSource) (pre : List Nat) : Block cfg :=
  let emitted := m.emit (.step { ip := m.ip.toNat, pre := pre, post := m.snapshot })
  let sampled := { emitted with stopInput := m.stopInput.tail }
  match source m.stopInput emitted.events with
  | .stop => { sampled with status := .stopped }
  | .proceed => sampled.advance

/-- What follows an instruction: nothing where it raised ("A `raise` anywhere ends the step"), else the step's end. -/
def afterInstruction (source : StopSource) (pre : List Nat) :
    Host.Outcome State Fault Refusal → Host.Outcome State Fault Refusal
  | .next t =>
    if t.block.status = .running then .next { cfg := t.cfg, block := t.block.complete source pre } else .next t
  | .fault f => .fault f
  | .refused r => .refused r

/-- Step 2: decode the fetched word and run it; a word with `OP >= 16` is `IllegalInstruction` before any operand is read
(45_execution_loop.md R113; 60_exceptions.md R134). -/
def runWord (source : StopSource) (w : InstrWord) (s : State) : Host.Outcome State Fault Refusal :=
  match decode w with
  | .ok i => afterInstruction source s.regsOut (exec i s)
  | .error _ => .next { cfg := s.cfg, block := s.block.takeFault (.illegalInstruction (opField w)) }

/-- One step under a STOP source, enabled only while `STATE = RUNNING` (45_execution_loop.md R110, 10_state.md R31). -/
def stepWith (source : StopSource) (s : State) : Host.Outcome State Fault Refusal :=
  if s.block.status = .running then
    match s.block.mirrorIp with
    | .error r => .next { cfg := s.cfg, block := s.block.takeFault r }
    | .ok m =>
      match m.fetch with
      | none => .next { cfg := s.cfg, block := m.halt }
      | some w => runWord source w { cfg := s.cfg, block := m }
  else .fault (.stepNotEnabled s.block.status)

/-- The words with `w` at index `k`; where the store is shorter, zero words fill the gap. -/
def placeWord (words : List InstrWord) (k : Nat) (w : InstrWord) : List InstrWord :=
  if k < words.length then words.set k w else words ++ List.replicate (k - words.length) 0 ++ [w]

/-- The binding if step 1 can use it, else none. -/
def usableBinding (nreg : Nat) (ipr : Option Field) : Option Field := ipr.filter fun p => p.toNat < nreg

/-- The block loaded so that its next step fetches and runs `w`: `w` at index `ip`, `STATE` RUNNING, and no binding that
would fault in step 1 (it stands for a load from outside: notes/assumptions/5.md, 15.md). -/
def Block.loadAtIp (m : Block cfg) (w : InstrWord) : Block cfg :=
  { m with
    prog := { words := placeWord m.prog.words m.ip.toNat w, ipr := usableBinding cfg.nreg m.prog.ipr }
    status := .running }

end Sys2Proof.Machine
end

