-- ==== Sys2Proof/Machine/Step.lean ====
section
/-! DEFINITION. One step of the machine: the loop's step, its STOP answers taken from the state. -/

namespace Sys2Proof.Machine

/-- One step (45_execution_loop.md R110). -/
def step (s : State) : Host.Outcome State Fault Refusal := stepWith queuedStop s

/-- `s` with the instruction whose bits are `w` (every bit above `nbits` 0) where the next step fetches it. -/
def State.withFetchWord (s : State) (nbits w : Nat) : State :=
  { cfg := s.cfg, block := s.block.loadAtIp (tableWord nbits w) }

end Sys2Proof.Machine
end

