-- ==== Sys2Proof/Machine/Datapath.lean ====
section
/-! DEFINITION. The hardware's own way to execute a word: the decoder's control values, the two operand multiplexers and
the one function multiplexer (30_encoding.md R68, R72 to R75). `exec` gives each instruction a meaning of its own; the
spec says the two forms are equal (R75). -/

namespace Sys2Proof.Machine

/-- `A_SEL` (30_encoding.md R68). -/
inductive ASel where
  | reg | imm
  deriving DecidableEq, Repr

/-- `B_SEL` (30_encoding.md R68); `unused` is the spec's `NONE`. -/
inductive BSel where
  | reg | imm | unused
  deriving DecidableEq, Repr

/-- `FN`, the select of the dispatch multiplexer (30_encoding.md R68). -/
inductive Fn where
  | add | mul | and | or | passA | gt | eq
  deriving DecidableEq, Repr

/-- The three control values the decoder answers (30_encoding.md R68). -/
structure Control where
  aSel : ASel
  bSel : BSel
  fn : Fn
  deriving DecidableEq, Repr

/-- The control table, one row per opcode number from 0 (30_encoding.md R68). -/
def controlTable : List Control :=
  [⟨.reg, .reg, .add⟩, ⟨.reg, .imm, .add⟩, ⟨.reg, .reg, .mul⟩, ⟨.reg, .imm, .mul⟩,
   ⟨.reg, .reg, .and⟩, ⟨.reg, .imm, .and⟩, ⟨.reg, .reg, .or⟩, ⟨.reg, .imm, .or⟩,
   ⟨.reg, .unused, .passA⟩, ⟨.imm, .unused, .passA⟩,
   ⟨.imm, .reg, .gt⟩, ⟨.reg, .imm, .gt⟩, ⟨.reg, .reg, .gt⟩,
   ⟨.imm, .reg, .eq⟩, ⟨.reg, .imm, .eq⟩, ⟨.reg, .reg, .eq⟩]

/-- `Decode(op)`: the control values, or none for `ILLEGAL` (30_encoding.md R72). -/
def decodeControl (op : Field) : Option Control := controlTable[op.toNat]?

variable {cfg : Config}

/-- The `A` operand multiplexer (30_encoding.md R73). -/
def Block.selectA (m : Block cfg) (sel : ASel) (a : Field) : Attempt (Word cfg.xlen) :=
  match sel with
  | .reg => m.readReg a
  | .imm => .ok (zext cfg.xlen a)

/-- The `B` operand multiplexer (30_encoding.md R73). -/
def Block.selectB (m : Block cfg) (sel : BSel) (b : Field) : Attempt (Word cfg.xlen) :=
  match sel with
  | .reg => m.readReg b
  | .imm => .ok (zext cfg.xlen b)
  | .unused => .ok 0

/-- The opcode dispatch multiplexer (30_encoding.md R74). -/
def dispatchMux (cfg : Config) (fn : Fn) (va vb : Word cfg.xlen) : Attempt (Word cfg.xlen) :=
  match fn with
  | .add => fit cfg (va.toNat + vb.toNat)
  | .mul => fit cfg (va.toNat * vb.toNat)
  | .and => .ok (va &&& vb)
  | .or => .ok (va ||| vb)
  | .passA => .ok va
  | .gt => .ok (if vb < va then 1 else 0)
  | .eq => .ok (if va = vb then 1 else 0)

/-- `Execute(word)`: decode, operand stage, destination check, dispatch, write (30_encoding.md R73, R74). -/
def Block.executeWord (m : Block cfg) (w : InstrWord) : Attempt (Block cfg) :=
  match decodeControl (opField w) with
  | none => .error (.illegalInstruction (opField w))
  | some ctl => do
    let va ← m.selectA ctl.aSel (aField w)
    let vb ← m.selectB ctl.bSel (bField w)
    m.checkReg (cField w)
    let result ← dispatchMux cfg ctl.fn va vb
    m.writeReg (cField w) result

end Sys2Proof.Machine
end

