-- ==== Sys2Proof/WellFormed.lean ====
section
/-! DEFINITION. The checks made before a run: on the instance's parameters, on the source's instructions and on a program.
An `Instr` needs no check: every value of its 32-bit slots is legal (30_encoding.md R78). -/

namespace Sys2Proof

/-- The parameters the spec admits: `XLEN >= 32` and `NREG >= 1` (00_scope.md R7, R8). -/
abbrev Config.wf (c : Config) : Prop := 32 ≤ c.xlen ∧ 1 ≤ c.nreg

/-- Every operand fits its 32-bit field, so the instruction can be encoded (30_encoding.md R66). -/
abbrev SourceInstr.wf (i : SourceInstr) : Prop :=
  i.inputA < 2 ^ 32 ∧ i.inputB < 2 ^ 32 ∧ i.output < 2 ^ 32

/-- `N`, the number of instructions (00_scope.md R9). -/
abbrev Program.length (p : Program) : Nat := p.words.length

/-- A validated program: at least one instruction, a length that keeps the halt address `ip = N` representable, and every
opcode number below 16 (00_scope.md R9; 70_reset_and_hazards.md R156). -/
abbrev Program.wf (c : Config) (p : Program) : Prop :=
  1 ≤ p.length ∧ p.length ≤ 2 ^ c.xlen - 1 ∧ ∀ w ∈ p.words, (opField w).toNat < 16

end Sys2Proof
end

