-- ==== Sys2Proof/Machine/Loader.lean ====
section
/-! DEFINITION. The external loader's contract (30_encoding.md R80 to R85; 70_reset_and_hazards.md R156, R159): lines of
text to a program of instruction words, or a named rejection. The block itself checks none of this (R84, R144). What
a comment looks like is left to the loader (R82, 92_eei_decisions.md D22), so it is a parameter here. -/

namespace Sys2Proof.Machine

/-- The spelling of a mnemonic (30_encoding.md R67, R83). -/
def mnemonicChars : Opcode → List Char
  | .addr => ['a', 'd', 'd', 'r']
  | .addi => ['a', 'd', 'd', 'i']
  | .mulr => ['m', 'u', 'l', 'r']
  | .muli => ['m', 'u', 'l', 'i']
  | .banr => ['b', 'a', 'n', 'r']
  | .bani => ['b', 'a', 'n', 'i']
  | .borr => ['b', 'o', 'r', 'r']
  | .bori => ['b', 'o', 'r', 'i']
  | .setr => ['s', 'e', 't', 'r']
  | .seti => ['s', 'e', 't', 'i']
  | .gtir => ['g', 't', 'i', 'r']
  | .gtri => ['g', 't', 'r', 'i']
  | .gtrr => ['g', 't', 'r', 'r']
  | .eqir => ['e', 'q', 'i', 'r']
  | .eqri => ['e', 'q', 'r', 'i']
  | .eqrr => ['e', 'q', 'r', 'r']

/-- The opcode a mnemonic spells. -/
def opcodeOfChars (cs : List Char) : Option Opcode := Opcode.all.find? fun op => mnemonicChars op == cs

/-- Why a loader rejects a program (30_encoding.md R84). -/
inductive LoadError where
  /-- "missing/unparseable mnemonic". -/
  | badMnemonic
  /-- "wrong operand count". -/
  | wrongOperandCount
  /-- "non-integer operand". -/
  | nonIntegerOperand
  /-- A program with zero instructions. -/
  | emptyProgram
  /-- More than one directive, or a directive that is not first. -/
  | misplacedDirective
  /-- An operand of `2^32` or more (R66). -/
  | operandTooLarge
  deriving DecidableEq, Repr

/-- The value of a decimal numeral, none where a character is no digit (30_encoding.md R80). -/
def decimal? (cs : List Char) : Option Nat :=
  cs.foldl (fun acc c => acc.bind fun n => if c.isDigit then some (10 * n + (c.toNat - '0'.toNat)) else none)
    (if cs.isEmpty then none else some 0)

/-- The pieces of a line between its spaces (30_encoding.md R80, 92_eei_decisions.md D22). -/
def pieces (line : List Char) : List (List Char) := (line.splitOnP fun c => c == ' ').filter fun p => !p.isEmpty

/-- A line that is not a comment, read (30_encoding.md R80 to R82). -/
inductive Line where
  | blank
  /-- `#ip p`: the directive that names the bound register. -/
  | directive (p : Nat)
  | instruction (i : SourceInstr)
  deriving DecidableEq, Repr

/-- The operands of an instruction line: exactly three non-negative integers (30_encoding.md R80). -/
def parseOperands : List (List Char) → Except LoadError (Nat × Nat × Nat)
  | [x, y, z] =>
    match decimal? x, decimal? y, decimal? z with
    | some a, some b, some c => .ok (a, b, c)
    | _, _, _ => .error .nonIntegerOperand
  | _ => .error .wrongOperandCount

/-- Read a line that is not a comment (30_encoding.md R80 to R82, R84). -/
def parseLine (line : List Char) : Except LoadError Line :=
  match pieces line with
  | [] => .ok .blank
  | first :: operands =>
    if first = ['#', 'i', 'p'] then
      match operands with
      | [x] =>
        match decimal? x with
        | some p => .ok (.directive p)
        | none => .error .nonIntegerOperand
      | _ => .error .wrongOperandCount
    else
      match opcodeOfChars first with
      | none => .error .badMnemonic
      | some op =>
        match parseOperands operands with
        | .ok (a, b, c) => .ok (.instruction { opcode := op, inputA := a, inputB := b, output := c })
        | .error e => .error e

/-- The word of an instruction line; an operand of `2^32` or more cannot be encoded (30_encoding.md R66, R84, R85). -/
def assemble (i : SourceInstr) : Except LoadError InstrWord :=
  if i.wf then
    .ok (encode (Instr.ofFields i.opcode (BitVec.ofNat 32 i.inputA) (BitVec.ofNat 32 i.inputB)
      (BitVec.ofNat 32 i.output)))
  else .error .operandTooLarge

/-- The words of the lines after an optional first directive: blank lines give none (30_encoding.md R82), another
directive is misplaced (R81, R84). -/
def assembleLines : List Line → Except LoadError (List InstrWord)
  | [] => .ok []
  | .blank :: rest => assembleLines rest
  | .directive _ :: _ => .error .misplacedDirective
  | .instruction i :: rest => do
    let w ← assemble i
    let ws ← assembleLines rest
    .ok (w :: ws)

/-- The binding index of a directive, any 32-bit value (10_state.md R29, 92_eei_decisions.md D24). -/
def bindingOf (p : Nat) : Except LoadError Field :=
  if p < 2 ^ 32 then .ok (BitVec.ofNat 32 p) else .error .operandTooLarge

/-- A program of at least one word (30_encoding.md R82, R84). -/
def programOf (ipr : Option Field) (words : List InstrWord) : Except LoadError Program :=
  if words.isEmpty then .error .emptyProgram else .ok { words := words, ipr := ipr }

/-- Skip the blank lines before the first line that holds anything. -/
def skipBlank : List Line → List Line
  | .blank :: rest => skipBlank rest
  | lines => lines

/-- The program of the read lines, or why it is malformed (30_encoding.md R81, R84). -/
def buildProgram (lines : List Line) : Except LoadError Program :=
  match skipBlank lines with
  | .directive p :: rest => do
    let words ← assembleLines rest
    let p ← bindingOf p
    programOf (some p) words
  | lines => do
    let words ← assembleLines lines
    programOf none words

/-- Load a program text: comment lines produce nothing, every other line must be read (30_encoding.md R80 to R85). Which
of several errors is answered is a DESIGN CHOICE (notes/assumptions/13.md). -/
def loadProgram (isComment : List Char → Bool) (text : List (List Char)) : Except LoadError Program := do
  let lines ← (text.filter fun l => !isComment l).mapM parseLine
  buildProgram lines

end Sys2Proof.Machine
end

