-- ==== Sys2Proof/Machine/Debug.lean ====
section
/-! DEFINITION. Debuggers and runs: the STOP oracle as a function of the step events so far (00_scope.md R14), the two run
entry points under fuel (45_execution_loop.md R127 to R129), and the debugger strategies of 60_exceptions.md R149. -/

namespace Sys2Proof.Machine

/-- A debugger: its answer to the newest step event, from all the run's step events so far, oldest first
(00_scope.md R14, 10_state.md R40). -/
abbrev StopOracle := List StepEvent → StopAnswer

/-- The step event an event is, if it is one. -/
def Event.stepEvent? : Event → Option StepEvent
  | .step e => some e
  | .halt _ => none
  | .fault _ _ _ => none

/-- The step events of a log that holds the newest first, put oldest first. -/
def stepEvents (events : List Event) : List StepEvent := (events.filterMap Event.stepEvent?).reverse

/-- The STOP source an oracle is. -/
def oracleStop (oracle : StopOracle) : StopSource := fun _ events => oracle (stepEvents events)

/-- One step with an oracle on the STOP input (45_execution_loop.md R110). -/
def stepUnder (oracle : StopOracle) (s : State) : Host.Outcome State Fault Refusal := stepWith (oracleStop oracle) s

/-- `s` with these answers waiting on the STOP input. -/
def State.withAnswers (s : State) (answers : List StopAnswer) : State :=
  { cfg := s.cfg, block := { s.block with stopInput := answers } }

/-- How a run under fuel comes out. -/
inductive RunResult where
  /-- `STATE` is no longer RUNNING: HALTED, STOPPED or FAULTED (45_execution_loop.md R127, R128). -/
  | ended (s : State)
  /-- The fuel is spent and the block still runs: "Running out of fuel is not an end of the run" (R129). -/
  | outOfFuel (s : State)
  /-- A running block took no step. No run comes out so: every step ends (70_reset_and_hazards.md R165). -/
  | stuck (s : State)
  deriving DecidableEq, Repr

/-- The same outcome with its state changed by `f`. -/
def RunResult.map (f : State → State) : RunResult → RunResult
  | .ended s => .ended (f s)
  | .outOfFuel s => .outOfFuel (f s)
  | .stuck s => .stuck (f s)

/-- A run under fuel: steps under a STOP source until `STATE` is no longer RUNNING (45_execution_loop.md R127 to R129). -/
def runWith (source : StopSource) : Nat → State → RunResult
  | 0, s => if s.block.status = .running then .outOfFuel s else .ended s
  | fuel + 1, s =>
    if s.block.status = .running then
      match stepWith source s with
      | .next t => runWith source fuel t
      | .fault _ => .stuck s
      | .refused _ => .stuck s
    else .ended s

/-- Debug-run: a run under a caller's oracle (45_execution_loop.md R128). -/
def debugRun (oracle : StopOracle) (fuel : Nat) (s : State) : RunResult := runWith (oracleStop oracle) fuel s

/-- The no-op debugger, which "never requests a stop" (45_execution_loop.md R127). -/
def neverStop : StopOracle := fun _ => .proceed

/-- Run-to-completion (45_execution_loop.md R127). -/
def runToCompletion (fuel : Nat) (s : State) : RunResult := debugRun neverStop fuel s

/-- `stop` where the test holds of the newest step event. -/
def stopWhen (test : StepEvent → Bool) : StopOracle := fun events =>
  match events.getLast? with
  | some e => if test e then .stop else .proceed
  | none => .proceed

/-- A breakpoint at address `t` (60_exceptions.md R149). -/
def breakpoint (t : Nat) : StopOracle := stopWhen fun e => e.ip == t

/-- A watchpoint on register `r`: it compares `pre` and `post` (60_exceptions.md R149). -/
def watchpoint (r : Nat) : StopOracle := stopWhen fun e => e.pre[r]? != e.post[r]?

/-- Single step: `stop` at every event (60_exceptions.md R149). -/
def singleStep : StopOracle := fun _ => .stop

/-- Stop when register `r` holds, before the instruction at address `t`, a value it held there before
(60_exceptions.md R149 (b); that the value is read from `pre` is a DESIGN CHOICE, notes/assumptions/14.md). -/
def stopOnRepeat (t r : Nat) : StopOracle := fun events =>
  let values := (events.filter fun e => e.ip == t).map fun e => e.pre[r]?
  match events.getLast? with
  | some e => if e.ip == t && values.dropLast.contains e.pre[r]? then .stop else .proceed
  | none => .proceed

/-- How often the instruction at address `k` has executed (60_exceptions.md R149 (c)). -/
def executionCount (events : List StepEvent) (k : Nat) : Nat := events.countP fun e => e.ip == k

end Sys2Proof.Machine
end

