-- ==== Sys2Proof/Safety.lean ====
section
/-! DEFINITION. What counts as a safe run and a consistent record, in the terms the claims use. -/

namespace Sys2Proof.Machine

variable {cfg : Config}

/-- The fault record is the one of a block in which no fault has occurred (10_state.md R32). -/
abbrev Block.noFaultRecord (m : Block cfg) : Prop := m.faultCause = .noFault ∧ m.faultIp = 0 ∧ m.faultInfo = 0

/-- Whether an event is a step event. -/
def Event.isStep : Event → Bool
  | .step _ => true
  | .halt _ => false
  | .fault _ _ _ => false

/-- Every event of a log is a step event. -/
abbrev onlySteps (events : List Event) : Prop := ∀ e ∈ events, e.isStep = true

/-- `ip` still addresses an instruction (10_state.md R27). -/
abbrev Block.addressesInstruction (m : Block cfg) : Prop := m.ip.toNat < m.prog.words.length

/-- The bound register, if there is one, exists and holds `ip` (10_state.md R22). -/
abbrev Block.mirrorsIp (m : Block cfg) : Prop := ∀ p, m.prog.ipr = some p → m.readReg p = .ok m.ip

/-- What STATE, the fault record, `ip`, the registers and the events of this run say of each other: a running block has
emitted step events only and records no fault (R32); a halted one halted where no instruction stands, with its one
HALT_EV last (R41); a stopped one stands at an instruction whose step event is last (45_execution_loop.md R118); a faulted
one records the fault its one FAULT_EV, the last event, reports (R42, 60_exceptions.md R131). -/
def Block.consistent (m : Block cfg) : Prop :=
  match m.status with
  | .running => m.noFaultRecord ∧ onlySteps m.events
  | .halted =>
    m.noFaultRecord ∧ ¬m.addressesInstruction ∧ m.mirrorsIp ∧
      ∃ before, onlySteps before ∧ m.events = .halt m.ip.toNat :: before
  | .stopped =>
    m.noFaultRecord ∧ m.addressesInstruction ∧
      ∃ before pre, onlySteps before ∧ m.events = .step ⟨m.ip.toNat, pre, m.snapshot⟩ :: before
  | .faulted =>
    m.faultCause ≠ .noFault ∧ m.faultIp = m.ip ∧
      ∃ before, onlySteps before ∧ m.events = .fault m.faultCause.code m.faultIp.toNat m.faultInfo.toNat :: before

/-- The state's block is consistent. -/
abbrev State.consistent (s : State) : Prop := s.block.consistent

/-- `i` completes on the block `m`: it writes to register `c` a value with the property `result`, and changes nothing else
(30_encoding.md R76). -/
def completesWith (m : Block cfg) (i : Instr) (c : Field) (result : Word cfg.xlen → Prop) : Prop :=
  ∃ (hc : c.toNat < cfg.nreg) (v : Word cfg.xlen), result v ∧
    exec i { cfg := cfg, block := m } = .next { cfg := cfg, block := { m with regs := m.regs.set c.toNat v hc } }

/-- `i` raises `r` on the block `m` and so writes nothing: fault entry on `m` as it stands (60_exceptions.md R131). -/
def raisesOn (m : Block cfg) (i : Instr) (r : Raise) : Prop :=
  exec i { cfg := cfg, block := m } = .next { cfg := cfg, block := m.takeFault r }

/-- What `OVERFLOW_MODE` makes of an instruction whose exact result is `s` and whose destination is `c`: the result
written where it fits, else the overflow raised or the wrapped result written (40_arithmetic.md R89). -/
def followsFit (m : Block cfg) (i : Instr) (c : Field) (s : Nat) : Prop :=
  (s < 2 ^ cfg.xlen → completesWith m i c (fun v => v.toNat = s)) ∧
  (2 ^ cfg.xlen ≤ s → cfg.overflow = .fault → raisesOn m i (.arithmeticOverflow s)) ∧
  (2 ^ cfg.xlen ≤ s → cfg.overflow = .wrap → completesWith m i c (fun v => v.toNat = s % 2 ^ cfg.xlen))

/-- The block after fault entry with this cause, code and information (60_exceptions.md R131). -/
def faultedBlock (m : Block cfg) (cause : FaultCause) (code : BitVec 4) (info : Word cfg.xlen) : Block cfg :=
  { m with
    status := .faulted
    faultCause := cause
    faultIp := m.ip
    faultInfo := info
    events := .fault code m.ip.toNat info.toNat :: m.events }

/-- The step of the block completes, and the next one fetches at `target` (45_execution_loop.md R120). -/
def stepGoesTo (m : Block cfg) (target : Nat) : Prop :=
  ∃ m' : Block cfg, step { cfg := cfg, block := m } = .next { cfg := cfg, block := m' } ∧
    m'.status = .running ∧ m'.ip.toNat = target

/-- The running block `m` is about to run `i`: step 1 leaves `m1`, whose fetched word decodes to `i`. -/
def Block.standsAt (m m1 : Block cfg) (i : Instr) : Prop :=
  m.status = .running ∧ m.mirrorIp = .ok m1 ∧ ∃ w, m1.fetch = some w ∧ decode w = .ok i

/-- The registers an instruction reads, `A` before `B` (30_encoding.md R68, column "registers read"). -/
def registersRead : Instr → List Field
  | .addr a b _ | .mulr a b _ | .banr a b _ | .borr a b _ | .gtrr a b _ | .eqrr a b _ => [a, b]
  | .addi a _ _ | .muli a _ _ | .bani a _ _ | .bori a _ _ | .setr a _ _ | .gtri a _ _ | .eqri a _ _ => [a]
  | .gtir _ b _ | .eqir _ b _ => [b]
  | .seti _ _ _ => []

/-- The first register index an instruction uses that does not exist, in the order `A`, `B`, `C` (60_exceptions.md R137). -/
def firstBadIndex (cfg : Config) (i : Instr) : Option Field :=
  (registersRead i ++ [i.slotC]).find? fun r => decide (cfg.nreg ≤ r.toNat)

/-- The `ip` that step 4 leaves after an instruction that wrote `v` to register `c`: what the bound register then holds,
or the executed index (45_execution_loop.md R114). -/
def branchBase (m : Block cfg) (c : Field) (v : Word cfg.xlen) : Word cfg.xlen :=
  match m.prog.ipr with
  | none => m.ip
  | some p => if p.toNat = c.toNat then v else m.ip

/-- A safe state: no fault has ended the run (60_exceptions.md R131). -/
abbrev State.safe (s : State) : Prop := s.block.status ≠ .faulted

/-- A run result that ended safely, by the natural halt or a stop (45_execution_loop.md R127, R128). -/
def RunResult.endedSafely : RunResult → Bool
  | .ended s => s.block.status == .halted || s.block.status == .stopped
  | .outOfFuel _ => false
  | .stuck _ => false

end Sys2Proof.Machine
end

