-- ==== Sys2Proof/Certificates/Slice0/Obligations.lean ====
section
/-! DEFINITION. The statements for the provers. `completesWith`, `raisesOn`, `Block.standsAt`, `followsFit`, `stepGoesTo`
and the other terms they share are defined in Sys2Proof/Safety.lean. -/

open Sys2Proof Sys2Proof.Machine

/-- For XLEN >= 32 and register operands and destination in range, addr, addi, mulr and muli with exact sum or product s
(immediates zero-extended): if s < 2^XLEN the instruction completes and writes s to R[c], changing nothing else; if s
>= 2^XLEN and OVERFLOW_MODE = fault it raises ArithmeticOverflow(s), fault entry on the block as it was; if s >=
2^XLEN and OVERFLOW_MODE = wrap it completes and writes s mod 2^XLEN to R[c], changing nothing else. Formalises R89. -/
def Obligations.AddAndMultiplyFollowFit : Prop :=
  ∀ (cfg : Config) (m : Block cfg) (a b c : Field), 32 ≤ cfg.xlen → c.toNat < cfg.nreg →
    ∀ ha : a.toNat < cfg.nreg,
      (∀ hb : b.toNat < cfg.nreg,
        followsFit m (.addr a b c) c ((m.regs[a.toNat]'ha).toNat + (m.regs[b.toNat]'hb).toNat) ∧
        followsFit m (.mulr a b c) c ((m.regs[a.toNat]'ha).toNat * (m.regs[b.toNat]'hb).toNat)) ∧
      followsFit m (.addi a b c) c ((m.regs[a.toNat]'ha).toNat + b.toNat) ∧
      followsFit m (.muli a b c) c ((m.regs[a.toNat]'ha).toNat * b.toNat)

/-- For XLEN >= 32 and register operands and destination in range, banr, bani, borr and bori complete: bit j of the value
written to R[c] (j < XLEN) is the AND or the OR of bit j of R[a] and of bit j of R[b] or of the zero-extended
immediate, which is 0 from bit 32 on; nothing else changes, in either overflow mode. Formalises R94. -/
def Obligations.BitwiseResultsBitByBit : Prop :=
  ∀ (cfg : Config) (m : Block cfg) (a b c : Field), 32 ≤ cfg.xlen → c.toNat < cfg.nreg →
    ∀ ha : a.toNat < cfg.nreg,
      (∀ hb : b.toNat < cfg.nreg,
        completesWith m (.banr a b c) c (fun v => ∀ j < cfg.xlen,
          v.getLsbD j = ((m.regs[a.toNat]'ha).getLsbD j && (m.regs[b.toNat]'hb).getLsbD j)) ∧
        completesWith m (.borr a b c) c (fun v => ∀ j < cfg.xlen,
          v.getLsbD j = ((m.regs[a.toNat]'ha).getLsbD j || (m.regs[b.toNat]'hb).getLsbD j))) ∧
      completesWith m (.bani a b c) c (fun v => ∀ j < cfg.xlen,
        v.getLsbD j = ((m.regs[a.toNat]'ha).getLsbD j && decide (j < 32) && b.getLsbD j)) ∧
      completesWith m (.bori a b c) c (fun v => ∀ j < cfg.xlen,
        v.getLsbD j = ((m.regs[a.toNat]'ha).getLsbD j || (decide (j < 32) && b.getLsbD j)))

/-- For every value of slot b, in range or not: setr a b c with a and c in range completes and writes R[a] to R[c]; seti a
b c with c in range and XLEN >= 32 completes and writes a to R[c]; each changes nothing else. And on every state, in
range or not, the outcome of each is the same whatever b is. Formalises R99. -/
def Obligations.SetCopiesAndIgnoresB : Prop :=
  ∀ (cfg : Config) (m : Block cfg) (a b c : Field), 32 ≤ cfg.xlen →
    (c.toNat < cfg.nreg →
      (∀ ha : a.toNat < cfg.nreg, completesWith m (.setr a b c) c (fun v => v = m.regs[a.toNat]'ha)) ∧
      completesWith m (.seti a b c) c (fun v => v.toNat = a.toNat)) ∧
    ∀ b' : Field,
      exec (.setr a b c) { cfg := cfg, block := m } = exec (.setr a b' c) { cfg := cfg, block := m } ∧
      exec (.seti a b c) { cfg := cfg, block := m } = exec (.seti a b' c) { cfg := cfg, block := m }

/-- For XLEN >= 32 and register operands and destination in range, gtir, gtri and gtrr complete and write to R[c] the
number 1 if the first operand is greater than the second as unsigned numbers (immediates zero-extended) and 0
otherwise, so 0 for equal operands; nothing else changes. Formalises R102. -/
def Obligations.GreaterThanIsUnsignedAndStrict : Prop :=
  ∀ (cfg : Config) (m : Block cfg) (a b c : Field), 32 ≤ cfg.xlen → c.toNat < cfg.nreg →
    (∀ hb : b.toNat < cfg.nreg, completesWith m (.gtir a b c) c (fun v =>
      v.toNat = if a.toNat > (m.regs[b.toNat]'hb).toNat then 1 else 0)) ∧
    (∀ ha : a.toNat < cfg.nreg, completesWith m (.gtri a b c) c (fun v =>
      v.toNat = if (m.regs[a.toNat]'ha).toNat > b.toNat then 1 else 0)) ∧
    (∀ (ha : a.toNat < cfg.nreg) (hb : b.toNat < cfg.nreg), completesWith m (.gtrr a b c) c (fun v =>
      v.toNat = if (m.regs[a.toNat]'ha).toNat > (m.regs[b.toNat]'hb).toNat then 1 else 0))

/-- For XLEN >= 32 and register operands and destination in range, eqir, eqri and eqrr complete and write to R[c] the
number 1 if the operands are equal as XLEN-bit unsigned numbers (immediates zero-extended) and 0 otherwise; nothing
else changes. Formalises R106. -/
def Obligations.EqualComparesWholeRegisters : Prop :=
  ∀ (cfg : Config) (m : Block cfg) (a b c : Field), 32 ≤ cfg.xlen → c.toNat < cfg.nreg →
    (∀ hb : b.toNat < cfg.nreg, completesWith m (.eqir a b c) c (fun v =>
      v.toNat = if a.toNat = (m.regs[b.toNat]'hb).toNat then 1 else 0)) ∧
    (∀ ha : a.toNat < cfg.nreg, completesWith m (.eqri a b c) c (fun v =>
      v.toNat = if (m.regs[a.toNat]'ha).toNat = b.toNat then 1 else 0)) ∧
    (∀ (ha : a.toNat < cfg.nreg) (hb : b.toNat < cfg.nreg), completesWith m (.eqrr a b c) c (fun v =>
      v.toNat = if (m.regs[a.toNat]'ha).toNat = (m.regs[b.toNat]'hb).toNat then 1 else 0))

/-- For each of the 16 instructions on every block: if some register operand or the destination has an index >= NREG, the
instruction raises RegisterIndexOutOfRange with the first such index in the order A, B, C, and writes nothing.
Immediate and unused slots are not among them. (Which of several bad indices is recorded is R137's order,
92_eei_decisions.md D11, which 93_implementation_defined.md I11 warns a claim about other implementations not to name:
notes/assumptions/9.md.) Rests on 60_exceptions.md R133, 60_exceptions.md R137, 30_encoding.md R70, 30_encoding.md
R71. -/
def Obligations.OutOfRangeIndexRaisesInOrder : Prop :=
  ∀ (cfg : Config) (m : Block cfg) (i : Instr) (r : Field),
    firstBadIndex cfg i = some r → raisesOn m i (.registerIndexOutOfRange r)

/-- For every instruction on every block, exec answers a next state, which is either the block with register C (in range)
replaced by some value and every other field as it was, or fault entry on the block as it was, for some cause.
Formalises R76. -/
def Obligations.OneRegisterWriteOrFaultEntry : Prop :=
  ∀ (cfg : Config) (m : Block cfg) (i : Instr),
    completesWith m i i.slotC (fun _ => True) ∨ ∃ r : Raise, raisesOn m i r

/-- For every 128-bit word and every state: executing the word through the control table, the two operand multiplexers,
the destination check and the dispatch multiplexer (fault entry where one raises) has the same outcome as decoding the
word and running the instruction's own meaning, and as IllegalInstruction(OP) where OP >= 16. Rests on 30_encoding.md
R75, 30_encoding.md R68, 30_encoding.md R72, 30_encoding.md R73, 30_encoding.md R74. -/
def Obligations.DatapathEqualsMeanings : Prop :=
  ∀ (w : InstrWord) (s : State),
    s.perform (fun m => m.executeWord w) =
      match decode w with
      | .ok i => exec i s
      | .error _ => .next { cfg := s.cfg, block := s.block.takeFault (.illegalInstruction (opField w)) }

/-- For every instruction, with every value of every slot: decode of its word is the instruction, and decoding its 16
little-endian bytes followed by any bytes answers the instruction and exactly the bytes that follow. Rests on
30_encoding.md R65, 30_encoding.md R67, 30_encoding.md R85, 20_memory.md R50. -/
def Obligations.DecodeOfEncodeIsTheInstruction : Prop :=
  ∀ (i : Instr) (rest : List Byte),
    decode (encode i) = .ok i ∧ decodeBytes (encodeBytes i ++ rest) = .ok (i, rest)

/-- For every 128-bit word and instruction: if the word decodes to the instruction, the instruction encodes to that word.
Rests on 30_encoding.md R65, 30_encoding.md R78. -/
def Obligations.EncodeOfDecodeIsTheWord : Prop :=
  ∀ (w : InstrWord) (i : Instr), decode w = .ok i → encode i = w

/-- For every word: if bits [31:0] are below 16 the decoder answers an instruction whose opcode number is those bits and
whose slots are bits [63:32], [95:64] and [127:96], whatever these hold; if they are 16 or more it answers
illegalOpcode with those bits. The control table answers nothing exactly then. Rests on 30_encoding.md R72,
30_encoding.md R77, 30_encoding.md R78. -/
def Obligations.OnlyOpcodesAboveFifteenAreIllegal : Prop :=
  ∀ w : InstrWord,
    ((w.extractLsb' 0 32).toNat < 16 → ∃ i : Instr, decode w = .ok i ∧ i.opcode.code = w.extractLsb' 0 32 ∧
      i.slotA = w.extractLsb' 32 32 ∧ i.slotB = w.extractLsb' 64 32 ∧ i.slotC = w.extractLsb' 96 32) ∧
    (16 ≤ (w.extractLsb' 0 32).toNat → decode w = .error (.illegalOpcode (w.extractLsb' 0 32))) ∧
    (decodeControl (w.extractLsb' 0 32) = none ↔ 16 ≤ (w.extractLsb' 0 32).toNat)

/-- Six words of the spec, one of each family and the illegal word E16, decode to the instructions (or the refusal) they
stand for. Rests on 30_encoding.md R65, 30_encoding.md R85, 95_test_vectors.md L2-F. -/
def Obligations.SampleWordsDecode : Prop :=
  decode 0x00000003000000020000000100000000 = .ok (.addr 1 2 3) ∧
    decode 0x00000003000000030000000300000003 = .ok (.muli 3 3 3) ∧
    decode 0x00000002000000010000000000000004 = .ok (.banr 0 1 2) ∧
    decode 0x00000000000000000000000500000009 = .ok (.seti 5 0 0) ∧
    decode 0x0000000100000004000000000000000B = .ok (.gtri 0 4 1) ∧
    decode 0x0000000000000008000000020000000E = .ok (.eqri 2 8 0) ∧
    decode 0x00000000000000000000000000000010 = .error (.illegalOpcode 16)

/-- For every word: its byte image has 16 bytes, byte j holds bits [8j+7:8j] for j = 0 to 15, and reading the image gives
the word. Formalises R50. -/
def Obligations.ProgramImageIsLittleEndian : Prop :=
  ∀ w : InstrWord, (bytesOfWord w).length = 16 ∧
    (∀ j < 16, (bytesOfWord w)[j]? = some (w.extractLsb' (8 * j) 8)) ∧ wordOfBytes (bytesOfWord w) = w

/-- For every block, indices i and j and value v: if i < NREG, writing v to R[i] succeeds, reading R[i] then gives v, and
reading any other R[j] gives what it gave before; if i >= NREG, both writing and reading R[i] raise
RegisterIndexOutOfRange(i). Rests on 00_scope.md R16, 20_memory.md R59, 10_state.md R21. -/
def Obligations.RegisterReadAfterWrite : Prop :=
  ∀ (cfg : Config) (m : Block cfg) (i j : Field) (v : Word cfg.xlen),
    (i.toNat < cfg.nreg → ∃ m' : Block cfg, m.writeReg i v = .ok m' ∧ m'.readReg i = .ok v ∧
      (j ≠ i → m'.readReg j = m.readReg j)) ∧
    (cfg.nreg ≤ i.toNat → m.writeReg i v = .error (.registerIndexOutOfRange i) ∧
      m.readReg i = .error (.registerIndexOutOfRange i))

/-- For every block and raise, fault entry gives the block with STATE = FAULTED, FAULT_IP = ip and one FAULT_EV added that
carries the same cause code, ip and info, everything else unchanged; the codes are 1 with the zero-extended index, 2
with the zero-extended OP, 3 with the exact result modulo 2^XLEN, 4 with the ip. (R131 takes the register contents
after a fault from 92_eei_decisions.md D12, and I5 says a claim should not rest on them: every statement that ends in
fault entry states R131's contents, notes/assumptions/9.md.) Rests on 60_exceptions.md R131, 60_exceptions.md R132. -/
def Obligations.FaultEntryRecordsTheFault : Prop :=
  ∀ (cfg : Config) (m : Block cfg) (index op : Field) (s : Nat) (k : Word cfg.xlen),
    m.takeFault (.registerIndexOutOfRange index) = faultedBlock m .registerIndexOutOfRange 1 (index.setWidth cfg.xlen) ∧
    m.takeFault (.illegalInstruction op) = faultedBlock m .illegalInstruction 2 (op.setWidth cfg.xlen) ∧
    m.takeFault (.arithmeticOverflow s) = faultedBlock m .arithmeticOverflow 3 (BitVec.ofNat cfg.xlen s) ∧
    m.takeFault (.ipOverflow k.toNat) = faultedBlock m .ipOverflow 4 k

/-- For every running block whose step 1 succeeds and whose fetched word has OP >= 16, step is fault entry with
IllegalInstruction(OP) on the block step 1 left, whatever the word's other fields hold. And in a validated program
every word decodes. Formalises R134. -/
def Obligations.IllegalWordFaultsBeforeOperands : Prop :=
  (∀ (cfg : Config) (m m1 : Block cfg) (w : InstrWord), m.status = .running → m.mirrorIp = .ok m1 →
      m1.fetch = some w → 16 ≤ (opField w).toNat →
      step { cfg := cfg, block := m } =
        .next { cfg := cfg, block := m1.takeFault (.illegalInstruction (opField w)) }) ∧
    ∀ (cfg : Config) (p : Program), p.wf cfg → ∀ w ∈ p.words, ∃ i : Instr, decode w = .ok i

/-- The record is noFault, 0, 0 after State.reset and after any RESET. If step answers a next state that is not FAULTED,
the three fields are as before. If it answers a FAULTED one, FAULT_IP is the ip the step started at and the cause is
not noFault. From FAULTED no step answers a next state, so the record stays until RESET. Formalises R32. -/
def Obligations.FaultRecordWrittenOnlyOnFault : Prop :=
  State.reset.block.noFaultRecord ∧
    (∀ (s : State) (prog : Program) (regs : Vector (Word s.cfg.xlen) s.cfg.nreg),
      (s.resetInput prog regs).block.noFaultRecord) ∧
    (∀ (cfg : Config) (m m' : Block cfg),
      step { cfg := cfg, block := m } = .next { cfg := cfg, block := m' } →
      (m'.status ≠ .faulted →
        m'.faultCause = m.faultCause ∧ m'.faultIp = m.faultIp ∧ m'.faultInfo = m.faultInfo) ∧
      (m'.status = .faulted → m'.faultIp = m.ip ∧ m'.faultCause ≠ .noFault)) ∧
    ∀ s t : State, s.block.status = .faulted → step s ≠ .next t

/-- For every running block that stands at an instruction i (step 1 leaves m1, and the word fetched there decodes to i):
step is exec of i on m1, followed by the loop's end of step with pre = the registers of m1 and the answer waiting on
the STOP input. (That this answer is the head of a queue, continue where the queue is empty, is the model's DESIGN
CHOICE: notes/assumptions/6.md.) Rests on 45_execution_loop.md R110, 45_execution_loop.md R113. -/
def Obligations.StepRunsTheDecodedInstruction : Prop :=
  ∀ (cfg : Config) (m m1 : Block cfg) (i : Instr), m.standsAt m1 i →
    step { cfg := cfg, block := m } =
      afterInstruction queuedStop m1.snapshot (exec i { cfg := cfg, block := m1 })

/-- With no binding step 1 changes nothing. With a binding p < NREG it leaves the block with R[p] = ip and nothing else
changed, and reading R[p] from that block gives ip (an instruction that then writes R[p] changes what is read after
it). With p >= NREG the step of a running block is fault entry with RegisterIndexOutOfRange(p) on the unchanged block,
whatever ip and the program are. In every step of a running block that ends HALTED with p bound, R[p] holds ip.
Formalises R111. -/
def Obligations.StepOneMirrorsIpOrFaults : Prop :=
  ∀ (cfg : Config) (m : Block cfg),
    (m.prog.ipr = none → m.mirrorIp = .ok m) ∧
    (∀ p : Field, m.prog.ipr = some p →
      (∀ hp : p.toNat < cfg.nreg,
        m.mirrorIp = .ok { m with regs := m.regs.set p.toNat m.ip hp } ∧
        ({ m with regs := m.regs.set p.toNat m.ip hp } : Block cfg).readReg p = .ok m.ip) ∧
      (cfg.nreg ≤ p.toNat → m.status = .running →
        step { cfg := cfg, block := m } =
          .next { cfg := cfg, block := m.takeFault (.registerIndexOutOfRange p) }) ∧
      ∀ m' : Block cfg, step { cfg := cfg, block := m } = .next { cfg := cfg, block := m' } →
        m'.status = .halted → m'.readReg p = .ok m.ip)

/-- For every running block whose step 1 succeeds with ip >= N: step gives the block step 1 left with STATE = HALTED and
HALT_EV(ip) added, nothing else changed; with a binding p, R[p] holds the final ip; and no further step answers a next
state, so no second halt event follows. Formalises R112. -/
def Obligations.NaturalHaltPastTheProgram : Prop :=
  ∀ (cfg : Config) (m m1 : Block cfg), m.status = .running → m.mirrorIp = .ok m1 →
    m.prog.words.length ≤ m.ip.toNat →
      step { cfg := cfg, block := m } =
        .next { cfg := cfg, block := { m1 with status := .halted, events := .halt m.ip.toNat :: m.events } } ∧
      (∀ p : Field, m.prog.ipr = some p → m1.readReg p = .ok m.ip) ∧
      ∀ t : State,
        step { cfg := cfg, block := { m1 with status := .halted, events := .halt m.ip.toNat :: m.events } } ≠ .next t

/-- For every running block that stands at i, whose i writes v to R[c], when STOP does not answer stop: let t be v if the
bound register is c, else the executed index (also without a binding). If t is not 2^XLEN - 1, step answers the block
with R[c] = v, ip = t + 1, STEP_EV(k, pre, post) added and one STOP answer used, nothing else changed: still RUNNING,
no fault. (That the answers stand in a queue, that a step event uses one of them and that an empty queue continues is
the model's DESIGN CHOICE and no rule's: notes/assumptions/6.md.) Rests on 45_execution_loop.md R114,
45_execution_loop.md R115, 45_execution_loop.md R117. -/
def Obligations.CompletedStepReadsBackAndIncrements : Prop :=
  ∀ (cfg : Config) (m m1 : Block cfg) (i : Instr) (c : Field) (v : Word cfg.xlen) (hc : c.toNat < cfg.nreg),
    m.standsAt m1 i →
    exec i { cfg := cfg, block := m1 } = .next { cfg := cfg, block := { m1 with regs := m1.regs.set c.toNat v hc } } →
    m.stopInput.head? ≠ some .stop → branchBase m c v ≠ maxWord cfg.xlen →
    step { cfg := cfg, block := m } = .next { cfg := cfg, block :=
      { m1 with
        regs := m1.regs.set c.toNat v hc
        ip := branchBase m c v + 1
        stopInput := m.stopInput.tail
        events := .step ⟨m.ip.toNat, m1.snapshot, (m1.regs.set c.toNat v hc).toList.map BitVec.toNat⟩ :: m.events } }

/-- For every running block that stands at i, whose i writes v to R[c], when STOP does not answer stop: if step 4 leaves
ip = 2^XLEN - 1, step gives FAULTED with cause IpOverflow, FAULT_IP = k, FAULT_INFO = 2^XLEN - 1, ip = k, the
instruction's write kept, and STEP_EV then FAULT_EV emitted, in both overflow modes. And without a binding, with N <=
2^XLEN - 1, no step of a running block ends with cause IpOverflow. (That the answers stand in a queue, that a step
event uses one of them and that an empty queue continues is the model's DESIGN CHOICE and no rule's:
notes/assumptions/6.md.) Rests on 45_execution_loop.md R116, 60_exceptions.md R131, 60_exceptions.md R136. -/
def Obligations.IpOverflowFromTheLargestIpOnly : Prop :=
  (∀ (cfg : Config) (m m1 : Block cfg) (i : Instr) (c : Field) (v : Word cfg.xlen) (hc : c.toNat < cfg.nreg),
      m.standsAt m1 i →
      exec i { cfg := cfg, block := m1 } = .next { cfg := cfg, block := { m1 with regs := m1.regs.set c.toNat v hc } } →
      m.stopInput.head? ≠ some .stop → branchBase m c v = maxWord cfg.xlen →
      step { cfg := cfg, block := m } = .next { cfg := cfg, block :=
        { m1 with
          regs := m1.regs.set c.toNat v hc
          status := .faulted
          faultCause := .ipOverflow
          faultIp := m.ip
          faultInfo := maxWord cfg.xlen
          stopInput := m.stopInput.tail
          events := .fault 4 m.ip.toNat (2 ^ cfg.xlen - 1) ::
            .step ⟨m.ip.toNat, m1.snapshot, (m1.regs.set c.toNat v hc).toList.map BitVec.toNat⟩ :: m.events } }) ∧
    ∀ (cfg : Config) (m m' : Block cfg), m.status = .running → m.prog.ipr = none →
      m.prog.words.length ≤ 2 ^ cfg.xlen - 1 →
      step { cfg := cfg, block := m } = .next { cfg := cfg, block := m' } →
      m'.status = .faulted → m'.faultCause ≠ .ipOverflow

/-- For every running block that stands at i, whose i writes v to R[c], when STOP answers stop: step gives the block with
R[c] = v, STATE = STOPPED, ip = k unchanged, STEP_EV(k, pre, post) added and nothing else, that answer used; also
where the value in the bound register is 2^XLEN - 1. No further step answers a next state. (That the answer is the
head of a queue and leaves it is the model's DESIGN CHOICE and no rule's: notes/assumptions/6.md.) Rests on
45_execution_loop.md R118, 10_state.md R31. -/
def Obligations.StopEndsTheRunAtTheInstruction : Prop :=
  ∀ (cfg : Config) (m m1 : Block cfg) (i : Instr) (c : Field) (v : Word cfg.xlen) (hc : c.toNat < cfg.nreg),
    m.standsAt m1 i →
    exec i { cfg := cfg, block := m1 } = .next { cfg := cfg, block := { m1 with regs := m1.regs.set c.toNat v hc } } →
    m.stopInput.head? = some .stop →
    ∃ m' : Block cfg,
      m' = { m1 with
        regs := m1.regs.set c.toNat v hc
        ip := m.ip
        status := .stopped
        stopInput := m.stopInput.tail
        events := .step ⟨m.ip.toNat, m1.snapshot, (m1.regs.set c.toNat v hc).toList.map BitVec.toNat⟩ :: m.events } ∧
      step { cfg := cfg, block := m } = .next { cfg := cfg, block := m' } ∧
      ∀ t : State, step { cfg := cfg, block := m' } ≠ .next t

/-- For every running block that stands at i, whose i raises r on the block step 1 left: step is exactly fault entry with
r on that block, so the only event added is FAULT_EV, ip stays k, the STOP input is not sampled, and a write by step 1
to the bound register is kept. Rests on 60_exceptions.md R131, 60_exceptions.md R139, 60_exceptions.md R145,
45_execution_loop.md R113. -/
def Obligations.RaiseEndsTheStep : Prop :=
  ∀ (cfg : Config) (m m1 : Block cfg) (i : Instr) (r : Raise), m.standsAt m1 i → raisesOn m1 i r →
    step { cfg := cfg, block := m } = .next { cfg := cfg, block := m1.takeFault r } ∧
    (m1.takeFault r).ip = m.ip ∧ (m1.takeFault r).stopInput = m.stopInput ∧
    ∃ info : Nat, (m1.takeFault r).events = .fault r.cause.code m.ip.toNat info :: m.events

/-- For every state whose STATE is not RUNNING, step stops with the fault stepNotEnabled, which names that STATE
(notes/assumptions/8.md), under every STOP source. Rests on 10_state.md R31, 93_implementation_defined.md I16. -/
def Obligations.TerminalStatesTakeNoStep : Prop :=
  ∀ (s : State) (source : StopSource), s.block.status ≠ .running →
    step s = .fault (.stepNotEnabled s.block.status) ∧ stepWith source s = .fault (.stepNotEnabled s.block.status)

/-- For every running block, step answers a next state of the same instance, and exactly one of the four endings is
recorded: RUNNING with one step event added, HALTED with HALT_EV(ip) added, STOPPED with one step event added, or
FAULTED with a FAULT_EV for this step's ip added last. No step refuses or stops without an answer, so a run is
infinite only as an infinite sequence of steps. Rests on 70_reset_and_hazards.md R165, 45_execution_loop.md R110. -/
def Obligations.EveryEnabledStepEnds : Prop :=
  ∀ (cfg : Config) (m : Block cfg), m.status = .running →
    ∃ m' : Block cfg, step { cfg := cfg, block := m } = .next { cfg := cfg, block := m' } ∧
      ((m'.status = .running ∧ ∃ e, m'.events = .step e :: m.events) ∨
       (m'.status = .halted ∧ m'.events = .halt m.ip.toNat :: m.events) ∨
       (m'.status = .stopped ∧ ∃ e, m'.events = .step e :: m.events) ∨
       (m'.status = .faulted ∧ ∃ code info, m'.events = .fault code m.ip.toNat info :: m.events ∨
         ∃ e, m'.events = .fault code m.ip.toNat info :: .step e :: m.events))

/-- If step answers a next state, its instance parameters XLEN, NREG and OVERFLOW_MODE, its program words and binding, and
the events emitted before the last RESET are those of the state before. Rests on 10_state.md R45, 20_memory.md R58,
10_state.md R20, 10_state.md R29. -/
def Obligations.ProgramAndParametersNeverChange : Prop :=
  ∀ s t : State, step s = .next t →
    t.cfg = s.cfg ∧ t.block.prog = s.block.prog ∧ t.block.earlier = s.block.earlier

/-- If step answers a next state that is still RUNNING, its ip is at least 1. Rests on 45_execution_loop.md R123. -/
def Obligations.NoJumpReachesAddressZero : Prop :=
  ∀ s t : State, step s = .next t → t.block.status = .running → 1 ≤ t.block.ip.toNat

/-- State.reset meets the invariant that relates STATE, the fault record, ip and the events of the run. (Its registers,
program, binding, NREG and STOP input hold values the model chose, on which the invariant does not rest:
notes/assumptions/2.md, 3.md, 5.md, 6.md.) Rests on 70_reset_and_hazards.md R153, 10_state.md R37. -/
def Obligations.ResetStateIsConsistent : Prop :=
  State.reset.consistent

/-- For every consistent state, if step answers a next state, it is consistent: RUNNING means no fault recorded and step
events only; HALTED means ip addresses no instruction, the bound register holds ip, and exactly one HALT_EV, the last
event, with that ip; STOPPED means ip addresses the instruction of the last event, a step event whose post is the
register file; FAULTED means the last event is the one FAULT_EV and carries the recorded cause, ip and info, with
FAULT_IP = ip. Rests on 10_state.md R31, 10_state.md R32, 10_state.md R37, 10_state.md R41, 10_state.md R42,
45_execution_loop.md R112, 45_execution_loop.md R118, 60_exceptions.md R131. -/
def Obligations.EveryStepKeepsConsistency : Prop :=
  ∀ s t : State, s.consistent → step s = .next t → t.consistent

/-- For every state and every program and initial registers: after RESET the program, binding and registers are the given
ones, ip = 0, STATE = RUNNING, the fault record is empty, the parameters are unchanged, the new run has no events,
every event emitted before is kept, and the state is consistent. (The STOP input stays: the model's choice,
notes/assumptions/6.md.) Rests on 70_reset_and_hazards.md R153, 70_reset_and_hazards.md R154, 10_state.md R43. -/
def Obligations.ResetInputSetsEveryPieceOfState : Prop :=
  ∀ (s : State) (prog : Program) (regs : Vector (Word s.cfg.xlen) s.cfg.nreg),
    s.resetInput prog regs = { cfg := s.cfg, block := {
      prog := prog
      regs := regs
      ip := 0
      status := .running
      faultCause := .noFault
      faultIp := 0
      faultInfo := 0
      stopInput := s.block.stopInput
      events := []
      earlier := s.block.events ++ s.block.earlier } } ∧ (s.resetInput prog regs).consistent

/-- For every state with XLEN >= 32: STATUS bits [1:0] are STATE's code and bits [7:4] the cause code, all other bits 0;
IP, FAULT_IP and FAULT_INFO read the fields; CFG_N reads N modulo 2^XLEN (N itself where N < 2^XLEN); CFG_IPR_EN is 1
with a binding and else 0; CFG_IPR_IDX is the bound index, else 0; CFG_NREG reads NREG modulo 2^XLEN; every index
above 7 reads 0. (The two truncations are the model's and no rule's: CFG_N where N >= 2^XLEN, notes/assumptions/19.md;
CFG_NREG where NREG >= 2^XLEN, a DESIGN CHOICE, notes/assumptions/22.md.) Rests on 10_state.md R35, 10_state.md R44. -/
def Obligations.BlockRegistersReadTheState : Prop :=
  ∀ s : State, 32 ≤ s.cfg.xlen →
    (s.csrOut 0).toNat = s.block.status.code.toNat + 16 * s.block.faultCause.code.toNat ∧
    s.csrOut 1 = s.block.ip ∧ s.csrOut 2 = s.block.faultIp ∧ s.csrOut 3 = s.block.faultInfo ∧
    (s.csrOut 4).toNat = s.block.prog.words.length % 2 ^ s.cfg.xlen ∧
    (s.block.prog.ipr = none → (s.csrOut 5).toNat = 0 ∧ (s.csrOut 6).toNat = 0) ∧
    (∀ p : Field, s.block.prog.ipr = some p → (s.csrOut 5).toNat = 1 ∧ (s.csrOut 6).toNat = p.toNat) ∧
    (s.csrOut 7).toNat = s.cfg.nreg % 2 ^ s.cfg.xlen ∧ ∀ index > 7, s.csrOut index = 0

/-- For every block with a binding p < NREG and any two values: the steps from the block with R[p] = v and with R[p] = v'
are equal, outcome, events and all, under every STOP source. At launch this is INIT_REGS[p]. Rests on
70_reset_and_hazards.md R158, 45_execution_loop.md R111. -/
def Obligations.InitialBoundRegisterIsNeverObserved : Prop :=
  ∀ (cfg : Config) (m : Block cfg) (p : Field) (hp : p.toNat < cfg.nreg) (v v' : Word cfg.xlen) (source : StopSource),
    m.prog.ipr = some p →
    stepWith source { cfg := cfg, block := { m with regs := m.regs.set p.toNat v hp } } =
      stepWith source { cfg := cfg, block := { m with regs := m.regs.set p.toNat v' hp } }

/-- For XLEN >= 32 and a running block at index k with bound register p < NREG and no STOP answer waiting: seti t b p
makes the next ip t + 1; addi p d p makes it k + d + 1; setr q b p with q in range and q not p makes it x[q] + 1; mulr
p p p makes it k * k + 1; each where that number is below 2^XLEN, still RUNNING. (That the run continues where no
answer waits is the model's DESIGN CHOICE: notes/assumptions/6.md.) Rests on 45_execution_loop.md R122,
45_execution_loop.md R120, 45_execution_loop.md R119. -/
def Obligations.JumpsThroughTheBoundRegister : Prop :=
  ∀ (cfg : Config) (m m1 : Block cfg) (p : Field) (i : Instr), 32 ≤ cfg.xlen → p.toNat < cfg.nreg →
    m.prog.ipr = some p → m.stopInput = [] → m.standsAt m1 i →
    (∀ t b : Field, i = .seti t b p → t.toNat + 1 < 2 ^ cfg.xlen → stepGoesTo m (t.toNat + 1)) ∧
    (∀ d : Field, i = .addi p d p → m.ip.toNat + d.toNat + 1 < 2 ^ cfg.xlen →
      stepGoesTo m (m.ip.toNat + d.toNat + 1)) ∧
    (∀ (q b : Field) (hq : q.toNat < cfg.nreg), q ≠ p → i = .setr q b p →
      (m.regs[q.toNat]'hq).toNat + 1 < 2 ^ cfg.xlen → stepGoesTo m ((m.regs[q.toNat]'hq).toNat + 1)) ∧
    (i = .mulr p p p → m.ip.toNat * m.ip.toNat + 1 < 2 ^ cfg.xlen → stepGoesTo m (m.ip.toNat * m.ip.toNat + 1))

/-- For a running block at index j with bound register p < NREG, a register q < NREG other than p, and no STOP answer
waiting, that stands at addr q p p: where j + x[q] + 1 < 2^XLEN, step answers a RUNNING block with ip = j + x[q] + 1.
(That the run continues where no answer waits is the model's DESIGN CHOICE: notes/assumptions/6.md.) Rests on
45_execution_loop.md R121, 45_execution_loop.md R119, 45_execution_loop.md R120. -/
def Obligations.ConditionalBranchSkipsByTheFlag : Prop :=
  ∀ (cfg : Config) (m m1 : Block cfg) (p q : Field) (hq : q.toNat < cfg.nreg), p.toNat < cfg.nreg → q ≠ p →
    m.prog.ipr = some p → m.stopInput = [] → m.standsAt m1 (.addr q p p) →
    m.ip.toNat + (m.regs[q.toNat]'hq).toNat + 1 < 2 ^ cfg.xlen →
    stepGoesTo m (m.ip.toNat + (m.regs[q.toNat]'hq).toNat + 1)

/-- For every instance, every program without a binding of N <= 2^XLEN - 1 words, every initial registers: run-to-
completion from launch with fuel N + 1 ends, either HALTED with ip = N, the step events at 0, ..., N-1 in order, each
once, then HALT_EV(N); or FAULTED in the step at some index j < N, with the step events at 0, ..., j-1 in order and
FAULT_IP = j. Rests on 45_execution_loop.md R124, 00_scope.md R9. -/
def Obligations.UnboundRunIsAStraightLine : Prop :=
  ∀ (cfg : Config) (prog : Program) (regs : Vector (Word cfg.xlen) cfg.nreg) (answers : List StopAnswer),
    prog.ipr = none → prog.words.length ≤ 2 ^ cfg.xlen - 1 →
    ∃ t : State, runToCompletion (prog.words.length + 1) (State.launch cfg prog regs answers) = .ended t ∧
      ((t.block.status = .halted ∧ t.block.ip.toNat = prog.words.length ∧
          t.block.events.head? = some (.halt prog.words.length) ∧
          (stepEvents t.block.events).map StepEvent.ip = List.range prog.words.length) ∨
       ∃ j < prog.words.length, t.block.status = .faulted ∧ t.block.faultIp.toNat = j ∧
          (stepEvents t.block.events).map StepEvent.ip = List.range j)

/-- For every oracle, every state and every fuel there is a list of STOP answers such that the debug-run under the oracle
and the run of the machine's own step from the same state with those answers waiting come out the same, in everything
but the answers left over. (That the state holds the debugger as such a list is the model's: notes/assumptions/6.md.)
Rests on 00_scope.md R14, 10_state.md R40, 45_execution_loop.md R130, 45_execution_loop.md R128. -/
def Obligations.EveryDebuggerIsAQueueOfAnswers : Prop :=
  ∀ (oracle : StopOracle) (fuel : Nat) (s : State), ∃ answers : List StopAnswer,
    (debugRun oracle fuel s).map (fun t => t.withAnswers []) =
      (runWith queuedStop fuel (s.withAnswers answers)).map (fun t => t.withAnswers [])

/-- For every fuel and every running state: run-to-completion comes out either out of fuel with the block still RUNNING,
or ended HALTED or FAULTED; it never ends STOPPED and never meets a step that does not end. Rests on
45_execution_loop.md R127, 00_scope.md R14. -/
def Obligations.RunToCompletionNeverStops : Prop :=
  ∀ (fuel : Nat) (s : State), s.block.status = .running →
    (∃ t : State, runToCompletion fuel s = .outOfFuel t ∧ t.block.status = .running) ∨
    ∃ t : State, runToCompletion fuel s = .ended t ∧ (t.block.status = .halted ∨ t.block.status = .faulted)

/-- For every fuel, address k and running state whose run so far has emitted step events only, none of them at k: if the
debug-run under a breakpoint at k ends STOPPED, then ip = k, the instruction at k has executed exactly once, and every
event is a step event. Rests on 60_exceptions.md R149, 45_execution_loop.md R118, 95_test_vectors.md L1-4. -/
def Obligations.BreakpointStopsAfterItsInstruction : Prop :=
  ∀ (fuel k : Nat) (s t : State), s.block.status = .running → onlySteps s.block.events →
    executionCount (stepEvents s.block.events) k = 0 →
    debugRun (breakpoint k) fuel s = .ended t → t.block.status = .stopped →
    t.block.ip.toNat = k ∧ executionCount (stepEvents t.block.events) k = 1 ∧ onlySteps t.block.events

/-- For every notion of comment and every text: if the loader accepts it, the program has at least one instruction and
every word's opcode number is below 16, so the word decodes. With N <= 2^XLEN - 1 it is a validated program. Rests on
70_reset_and_hazards.md R156, 30_encoding.md R84, 30_encoding.md R85. -/
def Obligations.LoadedProgramsAreValid : Prop :=
  ∀ (isComment : List Char → Bool) (text : List (List Char)) (p : Program), loadProgram isComment text = .ok p →
    1 ≤ p.length ∧ (∀ w ∈ p.words, ∃ i : Instr, decode w = .ok i) ∧
    ∀ cfg : Config, p.length ≤ 2 ^ cfg.xlen - 1 → p.wf cfg

/-- For every source instruction: if its three operands are below 2^32, it assembles to the word whose number is OP + A *
2^32 + B * 2^64 + C * 2^96; otherwise it is rejected with operandTooLarge. Rests on 30_encoding.md R66, 30_encoding.md
R84, 30_encoding.md R85. -/
def Obligations.AssemblerEncodesExactlyTheFittingOperands : Prop :=
  ∀ i : SourceInstr,
    (i.inputA < 2 ^ 32 → i.inputB < 2 ^ 32 → i.output < 2 ^ 32 → ∃ w : InstrWord, assemble i = .ok w ∧
      w.toNat = i.opcode.code.toNat + i.inputA * 2 ^ 32 + i.inputB * 2 ^ 64 + i.output * 2 ^ 96) ∧
    (2 ^ 32 ≤ i.inputA ∨ 2 ^ 32 ≤ i.inputB ∨ 2 ^ 32 ≤ i.output → assemble i = .error .operandTooLarge)
end

