-- ==== Sys2Proof/Laws/Decode.lean ====
section
/-! SUPPORT. The fields of a word put together from fields, the opcode numbers both ways, and the words of a byte image. -/

namespace Sys2Proof.Laws

/-- The four fields of a word are the four it was put together from (30_encoding.md R65). -/
theorem fields_of_wordOfFields (op a b c : Field) :
    opField (wordOfFields op a b c) = op ∧ aField (wordOfFields op a b c) = a ∧
      bField (wordOfFields op a b c) = b ∧ cField (wordOfFields op a b c) = c := by
  refine ⟨?_, ?_, ?_, ?_⟩ <;> apply BitVec.eq_of_getLsbD_eq <;> intro j hj <;>
    simp only [opField, aField, bField, cField, wordOfFields, BitVec.getLsbD_extractLsb', BitVec.getLsbD_append, hj,
      decide_true, Bool.true_and] <;>
    split_ifs <;> first | omega | (congr 1; omega)

/-- An opcode's number stands for it (30_encoding.md R67). -/
theorem ofCode_code (op : Opcode) : Opcode.ofCode op.code = some op := by
  cases op <;> rfl

/-- A number stands for an opcode exactly when it is that opcode's (30_encoding.md R67). -/
theorem code_of_ofCode {v : Field} {op : Opcode} (h : Opcode.ofCode v = some op) : op.code = v := by
  have key : ∀ n < 16, ∀ op, Opcode.ofCode (BitVec.ofNat 32 n) = some op → op.code = BitVec.ofNat 32 n := by
    intro n hn op h
    interval_cases n <;> cases op <;> revert h <;> decide
  have hv : v.toNat < 16 := by
    by_contra hge
    unfold Opcode.ofCode at h
    split at h <;> first | omega | cases h
  have := key v.toNat hv op
  rw [BitVec.ofNat_toNat, BitVec.setWidth_eq] at this
  exact this h

/-- No opcode has a number of 16 or more (30_encoding.md R77). -/
theorem ofCode_eq_none {v : Field} (h : 16 ≤ v.toNat) : Opcode.ofCode v = none := by
  unfold Opcode.ofCode
  split <;> first | omega | rfl

/-- Every opcode's number is below 16 (30_encoding.md R67). -/
theorem code_lt (op : Opcode) : op.code.toNat < 16 := by
  cases op <;> decide

/-- An instruction is put together again from its opcode and slots. -/
@[simp] theorem ofFields_slots (i : Instr) : Instr.ofFields i.opcode i.slotA i.slotB i.slotC = i := by
  cases i <;> rfl

@[simp] theorem opcode_ofFields (op : Opcode) (a b c : Field) : (Instr.ofFields op a b c).opcode = op := by
  cases op <;> rfl

@[simp] theorem slotA_ofFields (op : Opcode) (a b c : Field) : (Instr.ofFields op a b c).slotA = a := by
  cases op <;> rfl

@[simp] theorem slotB_ofFields (op : Opcode) (a b c : Field) : (Instr.ofFields op a b c).slotB = b := by
  cases op <;> rfl

@[simp] theorem slotC_ofFields (op : Opcode) (a b c : Field) : (Instr.ofFields op a b c).slotC = c := by
  cases op <;> rfl

/-- What the decoder can answer on a whole word (30_encoding.md R72). -/
theorem decode_cases (w : InstrWord) :
    (∃ op, Opcode.ofCode (opField w) = some op ∧
      decode w = .ok (Instr.ofFields op (aField w) (bField w) (cField w))) ∨
    (Opcode.ofCode (opField w) = none ∧ decode w = .error (.illegalOpcode (opField w))) := by
  unfold decode
  cases h : Opcode.ofCode (opField w) with
  | none => exact .inr ⟨rfl, rfl⟩
  | some op => exact .inl ⟨op, rfl, rfl⟩

@[simp] theorem bytesOfWord_length (w : InstrWord) : (bytesOfWord w).length = 16 := by
  simp [bytesOfWord]

end Sys2Proof.Laws
end

