-- ==== Sys2Proof/Laws/State.lean ====
section
/-! SUPPORT. One lemma per field for each update of the block and of the state, so that no proof unfolds one. -/

namespace Sys2Proof.Machine

variable {cfg : Config} (m : Block cfg)

@[simp] theorem emit_prog (e : Event) : (m.emit e).prog = m.prog := rfl
@[simp] theorem emit_regs (e : Event) : (m.emit e).regs = m.regs := rfl
@[simp] theorem emit_ip (e : Event) : (m.emit e).ip = m.ip := rfl
@[simp] theorem emit_status (e : Event) : (m.emit e).status = m.status := rfl
@[simp] theorem emit_faultCause (e : Event) : (m.emit e).faultCause = m.faultCause := rfl
@[simp] theorem emit_faultIp (e : Event) : (m.emit e).faultIp = m.faultIp := rfl
@[simp] theorem emit_faultInfo (e : Event) : (m.emit e).faultInfo = m.faultInfo := rfl
@[simp] theorem emit_stopInput (e : Event) : (m.emit e).stopInput = m.stopInput := rfl
@[simp] theorem emit_events (e : Event) : (m.emit e).events = e :: m.events := rfl
@[simp] theorem emit_earlier (e : Event) : (m.emit e).earlier = m.earlier := rfl

@[simp] theorem takeFault_prog (r : Raise) : (m.takeFault r).prog = m.prog := rfl
@[simp] theorem takeFault_regs (r : Raise) : (m.takeFault r).regs = m.regs := rfl
@[simp] theorem takeFault_ip (r : Raise) : (m.takeFault r).ip = m.ip := rfl
@[simp] theorem takeFault_status (r : Raise) : (m.takeFault r).status = .faulted := rfl
@[simp] theorem takeFault_faultCause (r : Raise) : (m.takeFault r).faultCause = r.cause := rfl
@[simp] theorem takeFault_faultIp (r : Raise) : (m.takeFault r).faultIp = m.ip := rfl
@[simp] theorem takeFault_faultInfo (r : Raise) : (m.takeFault r).faultInfo = r.info cfg.xlen := rfl
@[simp] theorem takeFault_stopInput (r : Raise) : (m.takeFault r).stopInput = m.stopInput := rfl
@[simp] theorem takeFault_events (r : Raise) :
    (m.takeFault r).events = .fault r.cause.code m.ip.toNat (r.info cfg.xlen).toNat :: m.events := rfl
@[simp] theorem takeFault_earlier (r : Raise) : (m.takeFault r).earlier = m.earlier := rfl

@[simp] theorem halt_prog : (m.halt).prog = m.prog := rfl
@[simp] theorem halt_regs : (m.halt).regs = m.regs := rfl
@[simp] theorem halt_ip : (m.halt).ip = m.ip := rfl
@[simp] theorem halt_status : (m.halt).status = .halted := rfl
@[simp] theorem halt_faultCause : (m.halt).faultCause = m.faultCause := rfl
@[simp] theorem halt_faultIp : (m.halt).faultIp = m.faultIp := rfl
@[simp] theorem halt_faultInfo : (m.halt).faultInfo = m.faultInfo := rfl
@[simp] theorem halt_stopInput : (m.halt).stopInput = m.stopInput := rfl
@[simp] theorem halt_events : (m.halt).events = .halt m.ip.toNat :: m.events := rfl
@[simp] theorem halt_earlier : (m.halt).earlier = m.earlier := rfl

@[simp] theorem loadAtIp_prog (w : InstrWord) :
    (m.loadAtIp w).prog = { words := placeWord m.prog.words m.ip.toNat w, ipr := usableBinding cfg.nreg m.prog.ipr } := rfl
@[simp] theorem loadAtIp_regs (w : InstrWord) : (m.loadAtIp w).regs = m.regs := rfl
@[simp] theorem loadAtIp_ip (w : InstrWord) : (m.loadAtIp w).ip = m.ip := rfl
@[simp] theorem loadAtIp_status (w : InstrWord) : (m.loadAtIp w).status = .running := rfl
@[simp] theorem loadAtIp_faultCause (w : InstrWord) : (m.loadAtIp w).faultCause = m.faultCause := rfl
@[simp] theorem loadAtIp_faultIp (w : InstrWord) : (m.loadAtIp w).faultIp = m.faultIp := rfl
@[simp] theorem loadAtIp_faultInfo (w : InstrWord) : (m.loadAtIp w).faultInfo = m.faultInfo := rfl
@[simp] theorem loadAtIp_stopInput (w : InstrWord) : (m.loadAtIp w).stopInput = m.stopInput := rfl
@[simp] theorem loadAtIp_events (w : InstrWord) : (m.loadAtIp w).events = m.events := rfl
@[simp] theorem loadAtIp_earlier (w : InstrWord) : (m.loadAtIp w).earlier = m.earlier := rfl

end Sys2Proof.Machine

namespace Sys2Proof.Machine

variable (s : State)

@[simp] theorem resetInput_cfg (prog : Program) (regs : Vector (Word s.cfg.xlen) s.cfg.nreg) :
    (s.resetInput prog regs).cfg = s.cfg := rfl
@[simp] theorem resetInput_prog (prog : Program) (regs : Vector (Word s.cfg.xlen) s.cfg.nreg) :
    (s.resetInput prog regs).block.prog = prog := rfl
@[simp] theorem resetInput_regs (prog : Program) (regs : Vector (Word s.cfg.xlen) s.cfg.nreg) :
    (s.resetInput prog regs).block.regs = regs := rfl
@[simp] theorem resetInput_ip (prog : Program) (regs : Vector (Word s.cfg.xlen) s.cfg.nreg) :
    (s.resetInput prog regs).block.ip = 0 := rfl
@[simp] theorem resetInput_status (prog : Program) (regs : Vector (Word s.cfg.xlen) s.cfg.nreg) :
    (s.resetInput prog regs).block.status = .running := rfl
@[simp] theorem resetInput_faultCause (prog : Program) (regs : Vector (Word s.cfg.xlen) s.cfg.nreg) :
    (s.resetInput prog regs).block.faultCause = .noFault := rfl
@[simp] theorem resetInput_faultIp (prog : Program) (regs : Vector (Word s.cfg.xlen) s.cfg.nreg) :
    (s.resetInput prog regs).block.faultIp = 0 := rfl
@[simp] theorem resetInput_faultInfo (prog : Program) (regs : Vector (Word s.cfg.xlen) s.cfg.nreg) :
    (s.resetInput prog regs).block.faultInfo = 0 := rfl
@[simp] theorem resetInput_stopInput (prog : Program) (regs : Vector (Word s.cfg.xlen) s.cfg.nreg) :
    (s.resetInput prog regs).block.stopInput = s.block.stopInput := rfl
@[simp] theorem resetInput_events (prog : Program) (regs : Vector (Word s.cfg.xlen) s.cfg.nreg) :
    (s.resetInput prog regs).block.events = [] := rfl
@[simp] theorem resetInput_earlier (prog : Program) (regs : Vector (Word s.cfg.xlen) s.cfg.nreg) :
    (s.resetInput prog regs).block.earlier = s.block.events ++ s.block.earlier := rfl

@[simp] theorem withAnswers_cfg (answers : List StopAnswer) :
    (s.withAnswers answers).cfg = s.cfg := rfl
@[simp] theorem withAnswers_prog (answers : List StopAnswer) :
    (s.withAnswers answers).block.prog = s.block.prog := rfl
@[simp] theorem withAnswers_regs (answers : List StopAnswer) :
    (s.withAnswers answers).block.regs = s.block.regs := rfl
@[simp] theorem withAnswers_ip (answers : List StopAnswer) :
    (s.withAnswers answers).block.ip = s.block.ip := rfl
@[simp] theorem withAnswers_status (answers : List StopAnswer) :
    (s.withAnswers answers).block.status = s.block.status := rfl
@[simp] theorem withAnswers_faultCause (answers : List StopAnswer) :
    (s.withAnswers answers).block.faultCause = s.block.faultCause := rfl
@[simp] theorem withAnswers_faultIp (answers : List StopAnswer) :
    (s.withAnswers answers).block.faultIp = s.block.faultIp := rfl
@[simp] theorem withAnswers_faultInfo (answers : List StopAnswer) :
    (s.withAnswers answers).block.faultInfo = s.block.faultInfo := rfl
@[simp] theorem withAnswers_stopInput (answers : List StopAnswer) :
    (s.withAnswers answers).block.stopInput = answers := rfl
@[simp] theorem withAnswers_events (answers : List StopAnswer) :
    (s.withAnswers answers).block.events = s.block.events := rfl
@[simp] theorem withAnswers_earlier (answers : List StopAnswer) :
    (s.withAnswers answers).block.earlier = s.block.earlier := rfl

@[simp] theorem withFetchWord_cfg (nbits w : Nat) : (s.withFetchWord nbits w).cfg = s.cfg := rfl
@[simp] theorem withFetchWord_block (nbits w : Nat) :
    (s.withFetchWord nbits w).block = s.block.loadAtIp (tableWord nbits w) := rfl

@[simp] theorem launch_cfg (cfg : Config) (prog : Program) (regs : Vector (Word cfg.xlen) cfg.nreg)
    (answers : List StopAnswer) : (State.launch cfg prog regs answers).cfg = cfg := rfl

end Sys2Proof.Machine
end

