-- ==== Sys2Proof/Laws/Ops.lean ====
section
/-! SUPPORT. What each shared operation can do, said once: register ports, operands, results, one instruction's work. -/

namespace Sys2Proof.Machine

variable {cfg : Config} (m : Block cfg)

theorem checkReg_of_lt {i : Field} (h : i.toNat < cfg.nreg) : m.checkReg i = .ok () := by
  simp [Block.checkReg, h]

theorem checkReg_of_ge {i : Field} (h : cfg.nreg ≤ i.toNat) : m.checkReg i = .error (.registerIndexOutOfRange i) := by
  simp [Block.checkReg, Nat.not_lt.mpr h]

theorem readReg_of_lt {i : Field} (h : i.toNat < cfg.nreg) : m.readReg i = .ok m.regs[i.toNat] := by
  simp [Block.readReg, h]

theorem readReg_of_ge {i : Field} (h : cfg.nreg ≤ i.toNat) : m.readReg i = .error (.registerIndexOutOfRange i) := by
  simp [Block.readReg, Nat.not_lt.mpr h]

theorem writeReg_of_lt {i : Field} (v : Word cfg.xlen) (h : i.toNat < cfg.nreg) :
    m.writeReg i v = .ok { m with regs := m.regs.set i.toNat v h } := by
  simp [Block.writeReg, h]

theorem writeReg_of_ge {i : Field} (v : Word cfg.xlen) (h : cfg.nreg ≤ i.toNat) :
    m.writeReg i v = .error (.registerIndexOutOfRange i) := by
  simp [Block.writeReg, Nat.not_lt.mpr h]

variable {m}

/-- Everything a register write that succeeds can do (00_scope.md R16). -/
theorem writeReg_ok {m' : Block cfg} {i : Field} {v : Word cfg.xlen} (h : m.writeReg i v = .ok m') :
    ∃ hi : i.toNat < cfg.nreg, m' = { m with regs := m.regs.set i.toNat v hi } := by
  by_cases hi : i.toNat < cfg.nreg
  · rw [writeReg_of_lt m v hi] at h
    exact ⟨hi, (Except.ok.inj h).symm⟩
  · rw [writeReg_of_ge m v (Nat.le_of_not_lt hi)] at h
    cases h

/-- Everything a register read that succeeds can answer (00_scope.md R16). -/
theorem readReg_ok {i : Field} {v : Word cfg.xlen} (h : m.readReg i = .ok v) :
    ∃ hi : i.toNat < cfg.nreg, v = m.regs[i.toNat] := by
  by_cases hi : i.toNat < cfg.nreg
  · rw [readReg_of_lt m hi] at h
    exact ⟨hi, (Except.ok.inj h).symm⟩
  · rw [readReg_of_ge m (Nat.le_of_not_lt hi)] at h
    cases h

@[simp] theorem operand_reg (i : Field) : m.operand (.reg i) = m.readReg i := rfl
@[simp] theorem operand_imm (v : Field) : m.operand (.imm v) = .ok (zext cfg.xlen v) := rfl
@[simp] theorem operand_unused : m.operand .unused = .ok 0 := rfl

/-- An immediate keeps its number where it fits the datapath, as it does for every `XLEN >= 32` (30_encoding.md R66, R69). -/
theorem toNat_zext {xlen : Nat} (h : 32 ≤ xlen) (v : Field) : (zext xlen v).toNat = v.toNat := by
  rw [zext, BitVec.toNat_setWidth]
  exact Nat.mod_eq_of_lt (v.isLt.trans_le (Nat.pow_le_pow_right (by decide) h))

/-- An instruction whose operands read `va` and `vb`, whose destination exists and whose function answers `v` writes `v`
to its destination (30_encoding.md R73, R74). -/
theorem compute_of_ok {a b : Operand} {c : Field} {f : Word cfg.xlen → Word cfg.xlen → Attempt (Word cfg.xlen)}
    {va vb v : Word cfg.xlen} (hva : m.operand a = .ok va) (hvb : m.operand b = .ok vb) (hc : c.toNat < cfg.nreg)
    (hv : f va vb = .ok v) : m.compute a b c f = .ok { m with regs := m.regs.set c.toNat v hc } := by
  simp [Block.compute, hva, hvb, checkReg_of_lt m hc, hv, writeReg_of_lt m v hc, bind, Except.bind]

/-- The same instruction where its function raises (30_encoding.md R74). -/
theorem compute_of_raise {a b : Operand} {c : Field} {f : Word cfg.xlen → Word cfg.xlen → Attempt (Word cfg.xlen)}
    {va vb : Word cfg.xlen} {r : Raise} (hva : m.operand a = .ok va) (hvb : m.operand b = .ok vb)
    (hc : c.toNat < cfg.nreg) (hr : f va vb = .error r) : m.compute a b c f = .error r := by
  simp [Block.compute, hva, hvb, checkReg_of_lt m hc, hr, bind, Except.bind]

/-- Everything an instruction's work that succeeds can do: write one register (30_encoding.md R76). -/
theorem compute_ok {m' : Block cfg} {a b : Operand} {c : Field}
    {f : Word cfg.xlen → Word cfg.xlen → Attempt (Word cfg.xlen)} (h : m.compute a b c f = .ok m') :
    ∃ (hc : c.toNat < cfg.nreg) (v : Word cfg.xlen), m' = { m with regs := m.regs.set c.toNat v hc } := by
  unfold Block.compute at h
  cases hva : m.operand a with
  | error r => simp [hva, bind, Except.bind] at h
  | ok va =>
    cases hvb : m.operand b with
    | error r => simp [hva, hvb, bind, Except.bind] at h
    | ok vb =>
      cases hck : m.checkReg c with
      | error r => simp [hva, hvb, hck, bind, Except.bind] at h
      | ok u =>
        cases hv : f va vb with
        | error r => simp [hva, hvb, hck, hv, bind, Except.bind] at h
        | ok v =>
          simp only [hva, hvb, hck, hv, bind, Except.bind] at h
          obtain ⟨hc, rfl⟩ := writeReg_ok h
          exact ⟨hc, v, rfl⟩

theorem fit_of_lt {s : Nat} (h : s < 2 ^ cfg.xlen) : fit cfg s = .ok (BitVec.ofNat cfg.xlen s) := by
  simp [fit, h]

theorem fit_of_overflow {s : Nat} (h : 2 ^ cfg.xlen ≤ s) (hm : cfg.overflow = .fault) :
    fit cfg s = .error (.arithmeticOverflow s) := by
  simp [fit, Nat.not_lt.mpr h, hm]

theorem fit_of_wrap {s : Nat} (h : 2 ^ cfg.xlen ≤ s) (hm : cfg.overflow = .wrap) :
    fit cfg s = .ok (BitVec.ofNat cfg.xlen s) := by
  simp [fit, Nat.not_lt.mpr h, hm]

theorem perform_of_ok {s : State} {work : Block s.cfg → Attempt (Block s.cfg)} {m' : Block s.cfg}
    (h : work s.block = .ok m') : s.perform work = .next { cfg := s.cfg, block := m' } := by
  simp [State.perform, h]

theorem perform_of_raise {s : State} {work : Block s.cfg → Attempt (Block s.cfg)} {r : Raise}
    (h : work s.block = .error r) : s.perform work = .next { cfg := s.cfg, block := s.block.takeFault r } := by
  simp [State.perform, h]

/-- Everything running an instruction's work can answer: a next state, the work's or fault entry's (60_exceptions.md R131). -/
theorem perform_cases (s : State) (work : Block s.cfg → Attempt (Block s.cfg)) :
    (∃ m', work s.block = .ok m' ∧ s.perform work = .next { cfg := s.cfg, block := m' }) ∨
    ∃ r, work s.block = .error r ∧ s.perform work = .next { cfg := s.cfg, block := s.block.takeFault r } := by
  cases h : work s.block with
  | ok m' => exact .inl ⟨m', rfl, perform_of_ok h⟩
  | error r => exact .inr ⟨r, rfl, perform_of_raise h⟩

end Sys2Proof.Machine
end

