-- ==== Sys2Proof/Laws/Loop.lean ====
section
/-! SUPPORT. What each part of the loop, and one step, can do, said once. -/

namespace Sys2Proof.Machine

variable {cfg : Config} {m : Block cfg}

/-- Everything step 1 that succeeds can do (45_execution_loop.md R111). -/
theorem mirrorIp_ok {m1 : Block cfg} (h : m.mirrorIp = .ok m1) :
    (m.prog.ipr = none ∧ m1 = m) ∨
    ∃ (p : Field) (hp : p.toNat < cfg.nreg), m.prog.ipr = some p ∧ m1 = { m with regs := m.regs.set p.toNat m.ip hp } := by
  unfold Block.mirrorIp at h
  split at h
  · next hp => exact .inl ⟨hp, (Except.ok.inj h).symm⟩
  · next p hp =>
    obtain ⟨hlt, rfl⟩ := writeReg_ok h
    exact .inr ⟨p, hlt, hp, rfl⟩

/-- Step 1 that succeeds changes the registers alone (45_execution_loop.md R111). -/
theorem mirrorIp_frame {m1 : Block cfg} (h : m.mirrorIp = .ok m1) : m1 = { m with regs := m1.regs } := by
  rcases mirrorIp_ok h with ⟨-, rfl⟩ | ⟨p, hp, -, rfl⟩ <;> rfl

/-- The fetch answers no word exactly past the program (20_memory.md R55). -/
theorem fetch_eq_none : m.fetch = none ↔ m.prog.words.length ≤ m.ip.toNat := by
  simp [Block.fetch]

/-- Everything steps 4 and 5 can do (45_execution_loop.md R114 to R116). -/
theorem advance_cases (m : Block cfg) :
    (∃ v, m.readBack = .ok v ∧ v ≠ maxWord cfg.xlen ∧ m.advance = { m with ip := v + 1 }) ∨
    (m.readBack = .ok (maxWord cfg.xlen) ∧ m.advance = m.takeFault (.ipOverflow (maxWord cfg.xlen).toNat)) ∨
    ∃ r, m.readBack = .error r ∧ m.advance = m.takeFault r := by
  cases h : m.readBack with
  | error r => exact .inr (.inr ⟨r, rfl, by simp [Block.advance, h, bind, Except.bind]⟩)
  | ok v =>
    by_cases hv : v = maxWord cfg.xlen
    · subst hv
      exact .inr (.inl ⟨rfl, by simp [Block.advance, h, bind, Except.bind, nextIp]⟩)
    · exact .inl ⟨v, rfl, hv, by simp only [Block.advance, h, bind, Except.bind, nextIp, if_neg hv]⟩

/-- The block at the point where the answer to its step event has been sampled (45_execution_loop.md R110). -/
def Block.sampled (m : Block cfg) (pre : List Nat) : Block cfg :=
  { m with stopInput := m.stopInput.tail, events := .step ⟨m.ip.toNat, pre, m.snapshot⟩ :: m.events }

/-- Everything the end of a completed step can do: stop, or go on to steps 4 and 5 (45_execution_loop.md R118). -/
theorem complete_cases (m : Block cfg) (source : StopSource) (pre : List Nat) :
    (source m.stopInput (m.sampled pre).events = .stop ∧
      m.complete source pre = { m.sampled pre with status := .stopped }) ∨
    (source m.stopInput (m.sampled pre).events = .proceed ∧ m.complete source pre = (m.sampled pre).advance) := by
  cases h : source m.stopInput (m.sampled pre).events with
  | stop =>
    refine .inl ⟨rfl, ?_⟩
    simp only [Block.sampled] at h
    simp only [Block.complete, Block.emit, h, Block.sampled]
  | proceed =>
    refine .inr ⟨rfl, ?_⟩
    simp only [Block.sampled] at h
    simp only [Block.complete, Block.emit, h, Block.sampled]

theorem stepWith_of_not_running {s : State} (source : StopSource) (h : s.block.status ≠ .running) :
    stepWith source s = .fault (.stepNotEnabled s.block.status) := by
  simp [stepWith, h]

/-- Everything one step of a running block can be, in the loop's order: a fault in step 1, the natural halt, an illegal
word, or the decoded instruction and what follows it (45_execution_loop.md R110). -/
theorem stepWith_cases (source : StopSource) (h : m.status = .running) :
    (∃ r, m.mirrorIp = .error r ∧
      stepWith source { cfg := cfg, block := m } = .next { cfg := cfg, block := m.takeFault r }) ∨
    ∃ m1, m.mirrorIp = .ok m1 ∧
      ((m1.fetch = none ∧ stepWith source { cfg := cfg, block := m } = .next { cfg := cfg, block := m1.halt }) ∨
       (∃ w e, m1.fetch = some w ∧ decode w = .error e ∧
          stepWith source { cfg := cfg, block := m } =
            .next { cfg := cfg, block := m1.takeFault (.illegalInstruction (opField w)) }) ∨
       ∃ w i, m1.fetch = some w ∧ decode w = .ok i ∧
          stepWith source { cfg := cfg, block := m } =
            afterInstruction source m1.snapshot (exec i { cfg := cfg, block := m1 })) := by
  cases h1 : m.mirrorIp with
  | error r => exact .inl ⟨r, rfl, by simp only [stepWith, h, if_true, h1]⟩
  | ok m1 =>
    refine .inr ⟨m1, rfl, ?_⟩
    cases hf : m1.fetch with
    | none => exact .inl ⟨rfl, by simp only [stepWith, h, if_true, h1, hf]⟩
    | some w =>
      refine .inr ?_
      cases hd : decode w with
      | error e => exact .inl ⟨w, e, rfl, hd, by simp only [stepWith, h, if_true, h1, hf, runWord, hd]⟩
      | ok i =>
        exact .inr ⟨w, i, rfl, hd, by simp only [stepWith, h, if_true, h1, hf, runWord, hd, State.regsOut]⟩

/-- What follows an instruction that raised, or left a block that does not run: nothing (60_exceptions.md R131). -/
theorem afterInstruction_of_not_running (source : StopSource) (pre : List Nat) {t : State}
    (h : t.block.status ≠ .running) : afterInstruction source pre (.next t) = .next t := by
  simp [afterInstruction, h]

/-- What follows an instruction that completed: the end of the step (45_execution_loop.md R110). -/
theorem afterInstruction_of_running (source : StopSource) (pre : List Nat) {t : State}
    (h : t.block.status = .running) :
    afterInstruction source pre (.next t) = .next { cfg := t.cfg, block := t.block.complete source pre } := by
  simp [afterInstruction, h]

end Sys2Proof.Machine
end

