-- ==== Sys2Proof/Laws/PerInstr.lean ====
section
/-! SUPPORT. Statements made per instruction: one family, one lemma per constructor of Instr. -/

namespace Sys2Proof.Laws.EncodedFields

/-- Each field of an instruction's word holds its part: the opcode number and the three slots (30_encoding.md R65, R67). -/
def Statement (i : Instr) : Prop :=
  opField (encode i) = i.opcode.code ∧ aField (encode i) = i.slotA ∧ bField (encode i) = i.slotB ∧
    cField (encode i) = i.slotC

theorem addr (a b c : Field) : Statement (.addr a b c) := fields_of_wordOfFields _ a b c
theorem addi (a b c : Field) : Statement (.addi a b c) := fields_of_wordOfFields _ a b c
theorem mulr (a b c : Field) : Statement (.mulr a b c) := fields_of_wordOfFields _ a b c
theorem muli (a b c : Field) : Statement (.muli a b c) := fields_of_wordOfFields _ a b c
theorem banr (a b c : Field) : Statement (.banr a b c) := fields_of_wordOfFields _ a b c
theorem bani (a b c : Field) : Statement (.bani a b c) := fields_of_wordOfFields _ a b c
theorem borr (a b c : Field) : Statement (.borr a b c) := fields_of_wordOfFields _ a b c
theorem bori (a b c : Field) : Statement (.bori a b c) := fields_of_wordOfFields _ a b c
theorem setr (a b c : Field) : Statement (.setr a b c) := fields_of_wordOfFields _ a b c
theorem seti (a b c : Field) : Statement (.seti a b c) := fields_of_wordOfFields _ a b c
theorem gtir (a b c : Field) : Statement (.gtir a b c) := fields_of_wordOfFields _ a b c
theorem gtri (a b c : Field) : Statement (.gtri a b c) := fields_of_wordOfFields _ a b c
theorem gtrr (a b c : Field) : Statement (.gtrr a b c) := fields_of_wordOfFields _ a b c
theorem eqir (a b c : Field) : Statement (.eqir a b c) := fields_of_wordOfFields _ a b c
theorem eqri (a b c : Field) : Statement (.eqri a b c) := fields_of_wordOfFields _ a b c
theorem eqrr (a b c : Field) : Statement (.eqrr a b c) := fields_of_wordOfFields _ a b c

end Sys2Proof.Laws.EncodedFields
end

