-- ==== Sys2Proof/Laws/Step.lean ====
section
/-! SUPPORT. What a state loaded by `State.withFetchWord` steps to. -/

namespace Sys2Proof.Machine

variable {cfg : Config}

/-- Whatever the store's length, the word placed at an index is found there. -/
theorem placeWord_get (words : List InstrWord) (k : Nat) (w : InstrWord) : (placeWord words k w)[k]? = some w := by
  unfold placeWord
  split
  · next h => simp [h]
  · next h => simp [List.getElem?_append, h]

/-- A binding kept by the load is a register that exists. -/
theorem usableBinding_some {nreg : Nat} {ipr : Option Field} {p : Field} (h : usableBinding nreg ipr = some p) :
    p.toNat < nreg := by
  simpa using (Option.filter_eq_some_iff.mp h).2

/-- The next step of a loaded block runs the loaded word, on the block step 1 leaves (45_execution_loop.md R110). -/
theorem step_loadAtIp (m : Block cfg) (w : InstrWord) :
    ∃ m1, (m.loadAtIp w).mirrorIp = .ok m1 ∧
      step { cfg := cfg, block := m.loadAtIp w } = runWord queuedStop w { cfg := cfg, block := m1 } := by
  cases h : (m.loadAtIp w).mirrorIp with
  | error r =>
    unfold Block.mirrorIp at h
    split at h
    · cases h
    · next p hp =>
      rw [writeReg_of_lt _ _ (usableBinding_some hp)] at h
      cases h
  | ok m1 =>
    have hf : m1.fetch = some w := by
      rw [mirrorIp_frame h]
      exact placeWord_get m.prog.words m.ip.toNat w
    refine ⟨m1, rfl, ?_⟩
    have hr : (m.loadAtIp w).status = .running := rfl
    simp only [step, stepWith, hr, h, hf, if_true]

end Sys2Proof.Machine
end

