-- ==== Sys2Proof/Tests/Slice0.lean ====
section
/-! SUPPORT. The model's own tests. Every expected value is a row of spec/95_test_vectors.md, named in the comment, or follows
by hand from the rule named; then one witness for each clause of each statement that has hypotheses. -/

namespace Sys2Proof.Tests

open Sys2Proof.Machine

/-- The vectors' instance: `XLEN = 64`, `NREG = 4`. -/
def unit (mode : OverflowMode) : Config := { xlen := 64, nreg := 4, overflow := mode }

/-- A running block with this program, binding, `ip`, waiting STOP answers and registers. -/
def block (mode : OverflowMode) (words : List InstrWord) (ipr : Option Field) (ip : Nat) (answers : List StopAnswer)
    (r0 r1 r2 r3 : Nat) : Block (unit mode) :=
  { (State.launch (unit mode) { words := words, ipr := ipr }
      #v[BitVec.ofNat 64 r0, BitVec.ofNat 64 r1, BitVec.ofNat 64 r2, BitVec.ofNat 64 r3] answers).block with
    ip := BitVec.ofNat 64 ip }

/-- The same as a state. -/
def state (mode : OverflowMode) (words : List InstrWord) (ipr : Option Field) (ip : Nat) (answers : List StopAnswer)
    (r0 r1 r2 r3 : Nat) : State :=
  { cfg := unit mode, block := block mode words ipr ip answers r0 r1 r2 r3 }

/-- One instruction alone in the program store, no binding, at `ip = 0`. -/
def single (mode : OverflowMode) (i : Instr) (r0 r1 r2 r3 : Nat) : State :=
  state mode [encode i] none 0 [] r0 r1 r2 r3

/-- What a test looks at after one step: STATUS, `ip` and the registers. -/
def after (s : State) : Option (Nat × Nat × List Nat) :=
  match step s with
  | .next t => some ((t.csrOut 0).toNat, (t.csrOut 1).toNat, t.regsOut)
  | .fault _ => none
  | .refused _ => none

/-- FAULT_IP, FAULT_INFO and the newest event after one step. -/
def faultAfter (s : State) : Option (Nat × Nat × Option Event) :=
  match step s with
  | .next t => some ((t.csrOut 2).toNat, (t.csrOut 3).toNat, t.block.events.head?)
  | .fault _ => none
  | .refused _ => none

/-- The newest event and the STOP answers left after one step. -/
def eventAfter (s : State) : Option (Option Event × List StopAnswer) :=
  match step s with
  | .next t => some (t.block.events.head?, t.block.stopInput)
  | .fault _ => none
  | .refused _ => none

/-! ## Checks refuse ill-formed terms -/

theorem test_wf_standard : Config.standard.wf := by decide
theorem test_wf_refuses_narrow : ¬({ xlen := 31, nreg := 4, overflow := .fault } : Config).wf := by decide
theorem test_wf_refuses_no_registers : ¬({ xlen := 64, nreg := 0, overflow := .fault } : Config).wf := by decide
theorem test_wf_source : (SourceInstr.mk .addi 4294967295 4294967295 4294967295).wf := by decide
theorem test_wf_refuses_input_a : ¬(SourceInstr.mk .addi 4294967296 0 0).wf := by decide
theorem test_wf_refuses_input_b : ¬(SourceInstr.mk .addi 0 4294967296 0).wf := by decide
theorem test_wf_refuses_output : ¬(SourceInstr.mk .addi 0 0 4294967296).wf := by decide
theorem test_wf_program : (Program.mk [0xF] none).wf { xlen := 1, nreg := 4, overflow := .fault } :=
  ⟨Nat.le_refl 1, Nat.le_refl 1, List.forall_mem_cons.mpr ⟨by decide, nofun⟩⟩
theorem test_wf_refuses_empty : ¬(Program.mk [] none).wf Config.standard := by decide
theorem test_wf_refuses_too_long : ¬(Program.mk [0, 0] none).wf { xlen := 1, nreg := 4, overflow := .fault } := by decide
theorem test_wf_refuses_opcode : ¬(Program.mk [0x10] none).wf { xlen := 1, nreg := 4, overflow := .fault } :=
  fun h => absurd (h.2.2 0x10 (List.mem_singleton.mpr rfl)) (by decide)

/-! ## Decoding words written out from the encoding: vectors E0 to E18, L2-F -/

/-- E0. -/
theorem test_decode_addr : (decode 0x00000003000000020000000100000000).toOption = some (.addr 1 2 3) := by decide
/-- E1. -/
theorem test_decode_addi : (decode 0x00000003000000020000000100000001).toOption = some (.addi 1 2 3) := by decide
/-- E2. -/
theorem test_decode_mulr : (decode 0x00000003000000020000000100000002).toOption = some (.mulr 1 2 3) := by decide
/-- E3. -/
theorem test_decode_muli : (decode 0x00000003000000020000000100000003).toOption = some (.muli 1 2 3) := by decide
/-- E4. -/
theorem test_decode_banr : (decode 0x00000003000000020000000100000004).toOption = some (.banr 1 2 3) := by decide
/-- E5. -/
theorem test_decode_bani : (decode 0x00000003000000020000000100000005).toOption = some (.bani 1 2 3) := by decide
/-- E6. -/
theorem test_decode_borr : (decode 0x00000003000000020000000100000006).toOption = some (.borr 1 2 3) := by decide
/-- E7. -/
theorem test_decode_bori : (decode 0x00000003000000020000000100000007).toOption = some (.bori 1 2 3) := by decide
/-- E8. -/
theorem test_decode_setr : (decode 0x00000003000000020000000100000008).toOption = some (.setr 1 2 3) := by decide
/-- E9. -/
theorem test_decode_seti : (decode 0x00000003000000020000000100000009).toOption = some (.seti 1 2 3) := by decide
/-- E10. -/
theorem test_decode_gtir : (decode 0x0000000300000002000000010000000A).toOption = some (.gtir 1 2 3) := by decide
/-- E11. -/
theorem test_decode_gtri : (decode 0x0000000300000002000000010000000B).toOption = some (.gtri 1 2 3) := by decide
/-- E12. -/
theorem test_decode_gtrr : (decode 0x0000000300000002000000010000000C).toOption = some (.gtrr 1 2 3) := by decide
/-- E13. -/
theorem test_decode_eqir : (decode 0x0000000300000002000000010000000D).toOption = some (.eqir 1 2 3) := by decide
/-- E14. -/
theorem test_decode_eqri : (decode 0x0000000300000002000000010000000E).toOption = some (.eqri 1 2 3) := by decide
/-- E15. -/
theorem test_decode_eqrr : (decode 0x0000000300000002000000010000000F).toOption = some (.eqrr 1 2 3) := by decide
/-- E16: the word's OP is 16. -/
theorem test_decode_refuses : decode 0x10 = .error (.illegalOpcode 16) := by rfl
/-- E18. -/
theorem test_decode_refuses_largest : decode 0xFFFFFFFF = .error (.illegalOpcode 0xFFFFFFFF) := by rfl
/-- The byte image of `seti 5 0 0` (20_memory.md R50). -/
theorem test_image_seti : encodeBytes (.seti 5 0 0) = [9, 0, 0, 0, 5, 0, 0, 0, 0, 0, 0, 0, 0, 0, 0, 0] := by decide
theorem test_image_truncated : decodeBytes [9, 0, 0] = .error (.truncated 3) := by rfl
theorem test_table_word : decodeTableWord 128 0x0000000100000004000000000000000B = some (.gtri 0 4 1) := by decide
theorem test_table_short : decodeTableWord 32 0xF = some (.eqrr 0 0 0) := by decide

/-! ## One step of each instruction: vectors V1 to V63 -/

/-- V2: both reads before the write. -/
theorem test_addr_doubles : after (single .fault (.addr 0 0 0) 7 0 0 0) = some (0, 1, [14, 0, 0, 0]) := by decide
/-- V3: sum exactly 2^64; STATUS 0x33, nothing written. -/
theorem test_addr_overflows : after (single .fault (.addr 0 1 2) 18446744073709551615 1 5 0) = some (0x33, 0, [18446744073709551615, 1, 5, 0]) := by decide
/-- V8: zero-extended. -/
theorem test_addi_largest_immediate : after (single .fault (.addi 0 4294967295 1) 1 0 0 0) = some (0, 1, [1, 4294967296, 0, 0]) := by decide
/-- V10. -/
theorem test_addi_wraps : after (single .wrap (.addi 0 1 0) 18446744073709551615 0 0 0) = some (0, 1, [0, 0, 0, 0]) := by decide
/-- V12. -/
theorem test_mulr_overflows : after (single .fault (.mulr 0 0 0) 4294967296 0 0 0) = some (0x33, 0, [4294967296, 0, 0, 0]) := by decide
/-- V15. -/
theorem test_mulr_wraps : after (single .wrap (.mulr 0 0 1) 18446744073709551615 0 0 0) = some (0, 1, [18446744073709551615, 1, 0, 0]) := by decide
/-- V16. -/
theorem test_muli_in_place : after (single .fault (.muli 3 3 3) 0 0 0 14) = some (0, 1, [0, 0, 0, 42]) := by decide
/-- V20. -/
theorem test_muli_largest_fit : after (single .fault (.muli 0 4294967295 1) 4294967296 0 0 0) = some (0, 1, [4294967296, 18446744069414584320, 0, 0]) := by decide
/-- V22. -/
theorem test_banr : after (single .fault (.banr 0 1 2) 12 10 0 0) = some (0, 1, [12, 10, 8, 0]) := by decide
/-- V24. -/
theorem test_banr_b_out_of_range : after (single .fault (.banr 0 7 1) 12 0 0 0) = some (0x13, 0, [12, 0, 0, 0]) := by decide
/-- V26. -/
theorem test_bani_mask_zero_extended : after (single .fault (.bani 0 4294967295 1) 18446744073709551615 0 0 0) = some (0, 1, [18446744073709551615, 4294967295, 0, 0]) := by decide
/-- V29. -/
theorem test_borr_onto_a : after (single .fault (.borr 0 1 0) 0 18446744073709551615 0 0) = some (0, 1, [18446744073709551615, 18446744073709551615, 0, 0]) := by decide
/-- V32. -/
theorem test_bori_low_half : after (single .fault (.bori 0 4294967295 0) 9223372036854775808 0 0 0) = some (0, 1, [9223372041149743103, 0, 0, 0]) := by decide
/-- V34: slot B holds 99. -/
theorem test_setr_ignores_b : after (single .fault (.setr 1 99 0) 0 9 4 0) = some (0, 1, [9, 9, 4, 0]) := by decide
/-- V35. -/
theorem test_setr_a_out_of_range : after (single .fault (.setr 4 0 0) 0 0 0 0) = some (0x13, 0, [0, 0, 0, 0]) := by decide
/-- V38. -/
theorem test_seti_largest : after (single .fault (.seti 4294967295 99 3) 0 0 0 0) = some (0, 1, [0, 0, 0, 4294967295]) := by decide
/-- V39. -/
theorem test_seti_c_out_of_range : after (single .fault (.seti 7 0 4) 0 0 0 0) = some (0x13, 0, [0, 0, 0, 0]) := by decide
/-- V43. -/
theorem test_gtir_below : after (single .fault (.gtir 4294967295 0 1) 4294967296 0 0 0) = some (0, 1, [4294967296, 0, 0, 0]) := by decide
/-- V40. -/
theorem test_gtir_greater : after (single .fault (.gtir 15 3 1) 0 0 0 14) = some (0, 1, [0, 1, 0, 14]) := by decide
/-- V46: equal is not greater. -/
theorem test_gtri_equal : after (single .fault (.gtri 0 4 1) 4 0 0 0) = some (0, 1, [4, 0, 0, 0]) := by decide
/-- V47. -/
theorem test_gtri_across_32_bits : after (single .fault (.gtri 0 4294967295 1) 4294967296 0 0 0) = some (0, 1, [4294967296, 1, 0, 0]) := by decide
/-- V52. -/
theorem test_gtrr_unsigned : after (single .fault (.gtrr 0 1 2) 18446744073709551615 0 0 0) = some (0, 1, [18446744073709551615, 0, 1, 0]) := by decide
/-- V50. -/
theorem test_gtrr_less : after (single .fault (.gtrr 1 0 2) 7 3 0 0) = some (0, 1, [7, 3, 0, 0]) := by decide
/-- V54. -/
theorem test_eqir_whole_register : after (single .fault (.eqir 0 0 0) 4294967296 0 0 0) = some (0, 1, [0, 0, 0, 0]) := by decide
/-- V55. -/
theorem test_eqir_onto_b : after (single .fault (.eqir 0 0 0) 0 0 0 0) = some (0, 1, [1, 0, 0, 0]) := by decide
/-- V56. -/
theorem test_eqri_equal : after (single .fault (.eqri 2 8 0) 0 0 8 0) = some (0, 1, [1, 0, 8, 0]) := by decide
/-- V57. -/
theorem test_eqri_unequal : after (single .fault (.eqri 2 9 0) 0 0 8 0) = some (0, 1, [0, 0, 8, 0]) := by decide
/-- V60. -/
theorem test_eqrr_equal : after (single .fault (.eqrr 0 1 2) 1 1 0 0) = some (0, 1, [1, 1, 1, 0]) := by decide
/-- V62. -/
theorem test_eqrr_high_halves : after (single .fault (.eqrr 0 1 2) 18446744073709551615 4294967295 0 0) = some (0, 1, [18446744073709551615, 4294967295, 0, 0]) := by decide

/-- V6: three bad indices, `A` is recorded (60_exceptions.md R137). -/
theorem test_first_bad_index :
    faultAfter (single .fault (.addr 4 5 6) 0 0 0 0) = some (0, 4, some (.fault 1 0 4)) := by decide
/-- V39a: the unused slot is skipped and `C` recorded. -/
theorem test_unused_slot_skipped :
    faultAfter (single .fault (.setr 1 9 4) 0 0 0 0) = some (0, 4, some (.fault 1 0 4)) := by decide
/-- V44: the immediate 99 is not checked, `B` is. -/
theorem test_immediate_not_checked :
    faultAfter (single .fault (.gtir 99 4 0) 0 0 0 0) = some (0, 4, some (.fault 1 0 4)) := by decide
/-- With `XLEN = 32` (95_test_vectors.md L2-A), the increment of 2^32 - 1 wraps to 0. -/
theorem test_addi_wraps_at_32_bits :
    (match step (State.launch ⟨32, 1, .wrap⟩ ⟨[encode (.addi 0 1 0)], none⟩ #v[4294967295] []) with
      | .next t => some t.regsOut
      | _ => none) = some [0] := by decide

/-! ## The loop: vectors S1 to S12, E17, P8 -/

/-- S2. -/
theorem test_natural_halt :
    after (state .fault [encode (.addi 0 1 0)] none 1 [] 1 0 0 0) = some (1, 1, [1, 0, 0, 0]) := by decide
/-- S3: step 1 overwrites the bound register before the instruction reads it. -/
theorem test_step_one_mirrors :
    after (state .fault [encode (.addr 1 1 0)] (some 1) 0 [] 0 9 0 0) = some (0, 1, [0, 0, 0, 0]) := by decide
/-- S4: step 1 runs in the halting step too. -/
theorem test_halt_mirrors :
    after (state .fault [encode (.addr 1 1 0)] (some 1) 1 [] 0 0 0 0) = some (1, 1, [0, 1, 0, 0]) := by decide
/-- S4's event. -/
theorem test_halt_event :
    eventAfter (state .fault [encode (.addr 1 1 0)] (some 1) 1 [] 0 0 0 0) = some (some (.halt 1), []) := by decide
/-- S5: a relative jump, at index 2 of 5. -/
theorem test_relative_jump :
    after (state .fault [0, 0, encode (.addi 0 2 0), 0, 0] (some 0) 2 [] 0 0 0 0) = some (0, 5, [4, 0, 0, 0]) := by decide
/-- S7: the condition holds, one instruction is skipped. -/
theorem test_branch_taken :
    after (state .fault [0, encode (.addr 1 2 2), 0, 0] (some 2) 1 [] 0 1 0 0) = some (0, 3, [0, 1, 2, 0]) := by decide
/-- S9: a binding out of range faults in step 1. -/
theorem test_binding_out_of_range :
    faultAfter (state .fault [encode (.seti 1 0 0)] (some 4) 0 [] 0 0 0 0) = some (0, 4, some (.fault 1 0 4)) := by decide
/-- S10: IpOverflow keeps the instruction's write and `ip`; STATUS 0x43. -/
theorem test_ip_overflow :
    after (state .fault [0, encode (.setr 1 0 2)] (some 2) 1 [] 0 18446744073709551615 0 0) =
      some (0x43, 1, [0, 18446744073709551615, 18446744073709551615, 0]) := by decide
/-- P8's record. -/
theorem test_ip_overflow_record :
    faultAfter (state .wrap [0, encode (.setr 1 0 2)] (some 2) 1 [] 0 18446744073709551615 0 0) =
      some (1, 18446744073709551615, some (.fault 4 1 18446744073709551615)) := by decide
/-- S11: a stop skips the increment that would fault. -/
theorem test_stop_beats_ip_overflow :
    after (state .fault [0, encode (.setr 1 0 2)] (some 2) 1 [.stop] 0 18446744073709551615 0 0) =
      some (2, 1, [0, 18446744073709551615, 18446744073709551615, 0]) := by decide
/-- S11's step event, `pre` after step 1 and `post` after the write; the answer is used. -/
theorem test_step_event :
    eventAfter (state .fault [0, encode (.setr 1 0 2)] (some 2) 1 [.stop, .proceed] 0 18446744073709551615 0 0) =
      some (some (.step ⟨1, [0, 18446744073709551615, 1, 0], [0, 18446744073709551615, 18446744073709551615, 0]⟩), [.proceed]) := by decide
/-- E17: the illegal opcode beats the bad indices. -/
theorem test_illegal_first :
    faultAfter (state .fault [0x00000063000000630000006300000010] none 0 [] 0 0 0 0) =
      some (0, 16, some (.fault 2 0 16)) := by decide
/-- A terminal state takes no step (10_state.md R31). -/
theorem test_terminal :
    step { cfg := unit .fault, block := (block .fault [0] none 0 [] 0 0 0 0).halt } = .fault (.stepNotEnabled .halted) := by
  rfl

/-! ## Ports, loader, host interface -/

/-- P5b's binding seen through CSR_OUT: CFG_N, CFG_IPR_EN, CFG_IPR_IDX, CFG_NREG and index 8. -/
theorem test_csr :
    ([4, 5, 6, 7, 8].map fun k => ((state .fault [0, 0] (some 4) 0 [] 1 2 3 4).csrOut k).toNat) = [2, 1, 4, 4, 0] := by decide
/-- P2's text loads to P2's words. -/
theorem test_load : loadProgram (fun l => l.head? == some ';')
    ["; scenario 2".toList, "#ip 0".toList, "".toList, "seti 5 0 0".toList, "addi 0 1 0".toList] =
      .ok ⟨[0x00000000000000000000000500000009, 0x00000000000000010000000000000001], some 0⟩ := by rfl
/-- The six rejections of 30_encoding.md R84. -/
theorem test_load_rejects :
    (["jump 1 2 3", "addi 0 1", "addi 0 x 1", "", "addi 0 1 4294967296"].map fun l =>
      loadProgram (fun _ => false) [l.toList]) =
      [.error .badMnemonic, .error .wrongOperandCount, .error .nonIntegerOperand, .error .emptyProgram,
        .error .operandTooLarge] := by rfl
theorem test_load_rejects_late_directive :
    loadProgram (fun _ => false) ["addi 0 1 0".toList, "#ip 0".toList] = .error .misplacedDirective := by rfl
theorem test_load_rejects_second_directive :
    loadProgram (fun _ => false) ["#ip 1".toList, "#ip 0".toList, "addi 0 1 0".toList] = .error .misplacedDirective := by rfl
/-- A word placed from State.reset runs in the very next step. -/
theorem test_fetch_word :
    after (State.reset.withFetchWord 128 0x00000000000000010000000000000001) = some (0, 1, [1, 0, 0, 0]) := by decide
/-- With nothing loaded the first step after reset is the natural halt at 0 (notes/assumptions/5.md). -/
theorem test_reset_halts : after State.reset = some (1, 0, [0, 0, 0, 0]) := by decide

/-! ## Witnesses: for each statement with hypotheses, a state that meets them, clause by clause -/

/-- Range hypotheses of the instruction statements, at the last register; the sum and product just fit. -/
theorem witness_AddAndMultiplyFollowFit_fits :
    let m := block .fault [] none 0 [] 18446744069414584320 1 0 4294967295
    32 ≤ (unit .fault).xlen ∧ (3 : Field).toNat < (unit .fault).nreg ∧ (0 : Field).toNat < (unit .fault).nreg ∧
      m.regs[0].toNat + m.regs[3].toNat < 2 ^ 64 ∧ m.regs[0].toNat * m.regs[1].toNat < 2 ^ 64 ∧
      m.regs[0].toNat + (4294967295 : Field).toNat < 2 ^ 64 ∧ m.regs[0].toNat * (1 : Field).toNat < 2 ^ 64 := by decide
/-- The least sum and product that overflow, in fault mode. -/
theorem witness_AddAndMultiplyFollowFit_fault :
    let m := block .fault [] none 0 [] 18446744073709551615 1 4294967296 0
    2 ^ 64 ≤ m.regs[0].toNat + m.regs[1].toNat ∧ 2 ^ 64 ≤ m.regs[2].toNat * m.regs[2].toNat ∧
      2 ^ 64 ≤ m.regs[0].toNat + (1 : Field).toNat ∧ 2 ^ 64 ≤ m.regs[0].toNat * (2 : Field).toNat ∧
      (unit .fault).overflow = .fault := by decide
/-- The same in wrap mode. -/
theorem witness_AddAndMultiplyFollowFit_wrap :
    let m := block .wrap [] none 0 [] 18446744073709551615 1 4294967296 0
    2 ^ 64 ≤ m.regs[0].toNat + m.regs[1].toNat ∧ 2 ^ 64 ≤ m.regs[2].toNat * m.regs[2].toNat ∧
      2 ^ 64 ≤ m.regs[0].toNat + (1 : Field).toNat ∧ 2 ^ 64 ≤ m.regs[0].toNat * (2 : Field).toNat ∧
      (unit .wrap).overflow = .wrap := by decide
/-- The range hypotheses of the bitwise, set, greater-than and equality statements, at the last register. -/
theorem witness_BitwiseResultsBitByBit :
    32 ≤ (unit .fault).xlen ∧ (3 : Field).toNat < (unit .fault).nreg := by decide
theorem witness_SetCopiesAndIgnoresB :
    32 ≤ (unit .wrap).xlen ∧ (3 : Field).toNat < (unit .wrap).nreg ∧ (0 : Field).toNat < (unit .wrap).nreg := by decide
theorem witness_GreaterThanIsUnsignedAndStrict :
    32 ≤ ({ xlen := 32, nreg := 1, overflow := .fault } : Config).xlen ∧
      (0 : Field).toNat < ({ xlen := 32, nreg := 1, overflow := .fault } : Config).nreg := by decide
theorem witness_EqualComparesWholeRegisters :
    32 ≤ ({ xlen := 32, nreg := 1, overflow := .wrap } : Config).xlen ∧
      (0 : Field).toNat < ({ xlen := 32, nreg := 1, overflow := .wrap } : Config).nreg := by decide
/-- An index equal to NREG in slot A, in slot B alone, and in slot C alone. -/
theorem witness_OutOfRangeIndexRaisesInOrder :
    firstBadIndex (unit .fault) (.addr 4 5 6) = some 4 ∧ firstBadIndex (unit .fault) (.gtir 99 4 5) = some 4 ∧
      firstBadIndex (unit .fault) (.seti 99 99 4) = some 4 := by decide
theorem witness_EncodeOfDecodeIsTheWord :
    decode 0xFFFFFFFFFFFFFFFFFFFFFFFF0000000F = .ok (.eqrr 0xFFFFFFFF 0xFFFFFFFF 0xFFFFFFFF) := by rfl
/-- The greatest legal and the least illegal OP. -/
theorem witness_OnlyOpcodesAboveFifteenAreIllegal :
    ((0x0F : InstrWord).extractLsb' 0 32).toNat < 16 ∧ 16 ≤ ((0x10 : InstrWord).extractLsb' 0 32).toNat := by decide
/-- The last register, another one, and the first index that does not exist. -/
theorem witness_RegisterReadAfterWrite :
    (3 : Field).toNat < (unit .fault).nreg ∧ (0 : Field) ≠ 3 ∧ (unit .fault).nreg ≤ (4 : Field).toNat := by decide

/-- A running block whose word is illegal. -/
theorem witness_IllegalWordFaultsBeforeOperands :
    let m := block .fault [0x10] none 0 [] 0 0 0 0
    m.status = .running ∧ m.mirrorIp = .ok m ∧ m.fetch = some 0x10 ∧ 16 ≤ (opField 0x10).toNat :=
  ⟨rfl, rfl, rfl, by decide⟩
theorem witness_IllegalWordFaultsBeforeOperands_valid :
    (Program.mk [encode (.addi 0 1 0)] none).wf { xlen := 1, nreg := 4, overflow := .fault } ∧
      encode (.addi 0 1 0) ∈ (Program.mk [encode (.addi 0 1 0)] none).words :=
  ⟨⟨Nat.le_refl 1, Nat.le_refl 1, List.forall_mem_cons.mpr ⟨by decide, nofun⟩⟩, List.mem_singleton.mpr rfl⟩
/-- A step that completes, one that faults, and a faulted state. -/
theorem witness_FaultRecordWrittenOnlyOnFault :
    (∃ m' : Block (unit .fault), step (single .fault (.addi 0 1 0) 0 0 0 0) = .next ⟨unit .fault, m'⟩ ∧ m'.status ≠ .faulted) ∧
    (∃ m' : Block (unit .fault), step (single .fault (.addi 4 1 0) 0 0 0 0) = .next ⟨unit .fault, m'⟩ ∧ m'.status = .faulted) ∧
    (State.mk (unit .fault) ((block .fault [] none 0 [] 0 0 0 0).takeFault (.illegalInstruction 16))).block.status = .faulted :=
  ⟨⟨_, rfl, by decide⟩, ⟨_, rfl, by decide⟩, rfl⟩
/-- A block that stands at an instruction, with a binding, so that step 1 writes R[2]. -/
theorem witness_StepRunsTheDecodedInstruction :
    (block .fault [0, encode (.setr 1 0 2)] (some 2) 1 [] 0 7 0 0).standsAt
      (block .fault [0, encode (.setr 1 0 2)] (some 2) 1 [] 0 7 1 0) (.setr 1 0 2) :=
  ⟨rfl, rfl, _, rfl, rfl⟩
/-- No binding; the last register bound; NREG bound, on a running block; a halting step with a binding. -/
theorem witness_StepOneMirrorsIpOrFaults :
    (block .fault [] none 0 [] 0 0 0 0).prog.ipr = none ∧ (block .fault [] (some 3) 0 [] 0 0 0 0).prog.ipr = some 3 ∧
    (3 : Field).toNat < (unit .fault).nreg ∧ (unit .fault).nreg ≤ (4 : Field).toNat ∧
    (block .fault [] (some 4) 0 [] 0 0 0 0).prog.ipr = some 4 ∧ (block .fault [] (some 4) 0 [] 0 0 0 0).status = .running ∧
    ∃ m' : Block (unit .fault), step (state .fault [] (some 3) 5 [] 0 0 0 0) = .next ⟨unit .fault, m'⟩ ∧
      m'.status = .halted :=
  ⟨rfl, rfl, by decide, by decide, rfl, rfl, _, rfl, by decide⟩
/-- `ip = N`, the least index past the program, with a binding. -/
theorem witness_NaturalHaltPastTheProgram :
    let m := block .fault [0] (some 3) 1 [] 0 0 0 0
    m.status = .running ∧ m.mirrorIp = .ok (block .fault [0] (some 3) 1 [] 0 0 0 1) ∧
      m.prog.words.length ≤ m.ip.toNat ∧ m.prog.ipr = some 3 :=
  ⟨rfl, rfl, by decide, rfl⟩

/-- The block of S7, its block after step 1, and what its instruction leaves. -/
theorem witness_CompletedStepReadsBackAndIncrements :
    let m := block .fault [0, encode (.addr 1 2 2), 0, 0] (some 2) 1 [.proceed] 0 1 0 0
    let m1 := block .fault [0, encode (.addr 1 2 2), 0, 0] (some 2) 1 [.proceed] 0 1 1 0
    m.standsAt m1 (.addr 1 2 2) ∧
    exec (.addr 1 2 2) ⟨unit .fault, m1⟩ = .next ⟨unit .fault, { m1 with regs := m1.regs.set (2 : Field).toNat 2 }⟩ ∧
    m.stopInput.head? ≠ some .stop ∧ branchBase m 2 2 ≠ maxWord (unit .fault).xlen :=
  ⟨⟨rfl, rfl, _, rfl, rfl⟩, rfl, by decide, by decide⟩
/-- S10: the bound register is left at 2^64 - 1. -/
theorem witness_IpOverflowFromTheLargestIpOnly :
    let m := block .fault [0, encode (.setr 1 0 2)] (some 2) 1 [] 0 18446744073709551615 0 0
    let m1 := block .fault [0, encode (.setr 1 0 2)] (some 2) 1 [] 0 18446744073709551615 1 0
    m.standsAt m1 (.setr 1 0 2) ∧
    exec (.setr 1 0 2) ⟨unit .fault, m1⟩ =
      .next ⟨unit .fault, { m1 with regs := m1.regs.set (2 : Field).toNat (maxWord 64) }⟩ ∧
    m.stopInput.head? ≠ some .stop ∧ branchBase m 2 (maxWord 64) = maxWord (unit .fault).xlen :=
  ⟨⟨rfl, rfl, _, rfl, rfl⟩, rfl, by decide, by decide⟩
/-- A running block without a binding whose step faults. -/
theorem witness_IpOverflowFromTheLargestIpOnly_unbound :
    let m := block .fault [encode (.addi 4 1 0)] none 0 [] 0 0 0 0
    m.status = .running ∧ m.prog.ipr = none ∧ m.prog.words.length ≤ 2 ^ 64 - 1 ∧
    ∃ m' : Block (unit .fault), step ⟨unit .fault, m⟩ = .next ⟨unit .fault, m'⟩ ∧ m'.status = .faulted :=
  ⟨rfl, rfl, by decide, _, rfl, by decide⟩
/-- S11. -/
theorem witness_StopEndsTheRunAtTheInstruction :
    let m := block .fault [0, encode (.setr 1 0 2)] (some 2) 1 [.stop] 0 18446744073709551615 0 0
    let m1 := block .fault [0, encode (.setr 1 0 2)] (some 2) 1 [.stop] 0 18446744073709551615 1 0
    m.standsAt m1 (.setr 1 0 2) ∧
    exec (.setr 1 0 2) ⟨unit .fault, m1⟩ =
      .next ⟨unit .fault, { m1 with regs := m1.regs.set (2 : Field).toNat (maxWord 64) }⟩ ∧
    m.stopInput.head? = some .stop :=
  ⟨⟨rfl, rfl, _, rfl, rfl⟩, rfl, rfl⟩
/-- An instruction that raises on the block step 1 left. -/
theorem witness_RaiseEndsTheStep :
    let m := block .fault [encode (.addi 4 1 0)] (some 3) 0 [.stop] 0 0 0 9
    let m1 := block .fault [encode (.addi 4 1 0)] (some 3) 0 [.stop] 0 0 0 0
    m.standsAt m1 (.addi 4 1 0) ∧ raisesOn m1 (.addi 4 1 0) (.registerIndexOutOfRange 4) :=
  ⟨⟨rfl, rfl, _, rfl, rfl⟩, rfl⟩
theorem witness_TerminalStatesTakeNoStep :
    (State.mk (unit .fault) (block .fault [] none 0 [] 0 0 0 0).halt).block.status ≠ .running := by decide
theorem witness_EveryEnabledStepEnds : (block .fault [] none 0 [] 0 0 0 0).status = .running := by decide
theorem witness_ProgramAndParametersNeverChange :
    ∃ t : State, step (single .fault (.addi 0 1 0) 0 0 0 0) = .next t := ⟨_, rfl⟩
theorem witness_NoJumpReachesAddressZero :
    ∃ t : State, step (state .fault [encode (.seti 0 0 0)] (some 0) 0 [] 0 0 0 0) = .next t ∧ t.block.status = .running :=
  ⟨_, rfl, by decide⟩
/-- A running block with no event yet is consistent, and its step answers a next state. -/
theorem witness_EveryStepKeepsConsistency :
    (single .fault (.addi 0 1 0) 0 0 0 0).consistent ∧ ∃ t : State, step (single .fault (.addi 0 1 0) 0 0 0 0) = .next t :=
  ⟨⟨⟨rfl, rfl, rfl⟩, fun _ h => nomatch h⟩, _, rfl⟩
/-- The narrowest XLEN, without and with a binding, and the first index above 7. -/
theorem witness_BlockRegistersReadTheState :
    32 ≤ (State.launch ⟨32, 1, .fault⟩ ⟨[0], none⟩ #v[0] []).cfg.xlen ∧
    (State.launch ⟨32, 1, .fault⟩ ⟨[0], none⟩ #v[0] []).block.prog.ipr = none ∧
    (State.launch ⟨32, 1, .fault⟩ ⟨[0], some 0xFFFFFFFF⟩ #v[0] []).block.prog.ipr = some 0xFFFFFFFF ∧ 8 > 7 := by decide
theorem witness_InitialBoundRegisterIsNeverObserved :
    (3 : Field).toNat < (unit .fault).nreg ∧ (block .fault [] (some 3) 0 [] 0 0 0 0).prog.ipr = some 3 := by decide
/-- The four jumps, at index 1 with R[3] bound; the seti's target is the largest immediate plus one. -/
theorem witness_JumpsThroughTheBoundRegister :
    (∀ i ∈ [Instr.seti 4294967295 0 3, .addi 3 4294967295 3, .setr 0 0 3, .mulr 3 3 3],
      decode (encode i) = .ok i ∧ (block .fault [0, encode i] (some 3) 1 [] 18446744073709551614 0 0 9).fetch = some (encode i)) ∧
    (block .fault [0, 0] (some 3) 1 [] 18446744073709551614 0 0 9).mirrorIp =
      .ok (block .fault [0, 0] (some 3) 1 [] 18446744073709551614 0 0 1) ∧
    32 ≤ (unit .fault).xlen ∧ (3 : Field).toNat < (unit .fault).nreg ∧ (0 : Field) ≠ 3 ∧
    (4294967295 : Field).toNat + 1 < 2 ^ 64 ∧ 1 + (4294967295 : Field).toNat + 1 < 2 ^ 64 ∧
    18446744073709551614 + 1 < 2 ^ 64 ∧ 1 * 1 + 1 < 2 ^ 64 := by
  refine ⟨?_, rfl, by decide, by decide, by decide, by decide, by decide, by decide, by decide⟩
  simp only [List.forall_mem_cons]
  exact ⟨⟨rfl, rfl⟩, ⟨rfl, rfl⟩, ⟨rfl, rfl⟩, ⟨rfl, rfl⟩, nofun⟩
/-- S7's branch, with the flag set. -/
theorem witness_ConditionalBranchSkipsByTheFlag :
    let m := block .fault [0, encode (.addr 1 2 2), 0, 0] (some 2) 1 [] 0 1 0 0
    let m1 := block .fault [0, encode (.addr 1 2 2), 0, 0] (some 2) 1 [] 0 1 1 0
    (1 : Field).toNat < (unit .fault).nreg ∧ (2 : Field).toNat < (unit .fault).nreg ∧ (1 : Field) ≠ 2 ∧
      m.prog.ipr = some 2 ∧ m.stopInput = [] ∧ m.standsAt m1 (.addr 1 2 2) ∧
      m.ip.toNat + m.regs[1].toNat + 1 < 2 ^ 64 :=
  ⟨by decide, by decide, by decide, rfl, rfl, ⟨rfl, rfl, _, rfl, rfl⟩, by decide⟩
/-- The longest unbound program of a 1-bit machine: one word. -/
theorem witness_UnboundRunIsAStraightLine :
    (Program.mk [encode (.addi 0 1 0)] none).ipr = none ∧
      (Program.mk [encode (.addi 0 1 0)] none).words.length ≤ 2 ^ 1 - 1 := by decide
theorem witness_RunToCompletionNeverStops : (single .fault (.addi 0 1 0) 0 0 0 0).block.status = .running := by decide
/-- A run that a breakpoint at 0 ends STOPPED. -/
theorem witness_BreakpointStopsAfterItsInstruction :
    let s := single .fault (.addi 0 1 0) 0 0 0 0
    s.block.status = .running ∧ onlySteps s.block.events ∧ executionCount (stepEvents s.block.events) 0 = 0 ∧
      ∃ t : State, debugRun (breakpoint 0) 2 s = .ended t ∧ t.block.status = .stopped :=
  by
  refine ⟨rfl, ?_, rfl, _, rfl, by decide⟩
  intro _ h
  cases h
theorem witness_LoadedProgramsAreValid :
    (∃ p : Program, loadProgram (fun _ => false) ["addi 0 1 0".toList] = .ok p ∧ p.length ≤ 2 ^ 64 - 1) :=
  ⟨_, rfl, by decide⟩
/-- The largest operands that fit, and each operand at the least value that does not. -/
theorem witness_AssemblerEncodesExactlyTheFittingOperands :
    (SourceInstr.mk .eqrr 4294967295 4294967295 4294967295).wf ∧ 2 ^ 32 ≤ (SourceInstr.mk .eqrr 4294967296 0 0).inputA ∧
      2 ^ 32 ≤ (SourceInstr.mk .eqrr 0 4294967296 0).inputB ∧ 2 ^ 32 ≤ (SourceInstr.mk .eqrr 0 0 4294967296).output := by decide

end Sys2Proof.Tests
end

section
/-! Reading the register file after a write to it, and the statement O14 about it. -/

namespace Sys2Proof.Machine

variable {cfg : Config} {m m' : Block cfg} {i j : Field} {v : Word cfg.xlen}

theorem readReg_of_writeReg_same (h : m.writeReg i v = .ok m') : m'.readReg i = .ok v := by
  obtain ⟨hi, rfl⟩ := writeReg_ok h
  simp [readReg_of_lt _ hi]

theorem readReg_of_writeReg_ne (h : m.writeReg i v = .ok m') (hne : j ≠ i) : m'.readReg j = m.readReg j := by
  obtain ⟨hi, rfl⟩ := writeReg_ok h
  have hnat : i.toNat ≠ j.toNat := fun he => hne (BitVec.eq_of_toNat_eq he.symm)
  by_cases hj : j.toNat < cfg.nreg
  · simp [readReg_of_lt _ hj, Vector.getElem_set_ne hi hj hnat]
  · simp [readReg_of_ge _ (Nat.le_of_not_lt hj)]

end Sys2Proof.Machine

namespace Sys2Proof.Proofs

open Sys2Proof.Machine

/-- Settles O14: a write that succeeds is one of `writeReg_of_lt`, and the two register ports check the same range. -/
theorem registerReadAfterWrite : Obligations.RegisterReadAfterWrite := by
  intro cfg m i j v
  refine ⟨fun hi => ?_, fun hi => ⟨writeReg_of_ge m v hi, readReg_of_ge m hi⟩⟩
  have hw := writeReg_of_lt m v hi
  exact ⟨_, hw, readReg_of_writeReg_same hw, readReg_of_writeReg_ne hw⟩

end Sys2Proof.Proofs
end

section
/-! The answers waiting on the STOP input matter at one point of a step only, where it samples one of them: every
part of the loop before and after that point leaves them alone and does not look at them (10_state.md R40). -/

namespace Sys2Proof.Machine

/-- `m` with these answers waiting on the STOP input: `State.withAnswers`, on the block. -/
def Block.withAnswers {cfg : Config} (m : Block cfg) (answers : List StopAnswer) : Block cfg :=
  { m with stopInput := answers }

theorem State.withAnswers_eq (s : State) (answers : List StopAnswer) :
    s.withAnswers answers = { cfg := s.cfg, block := s.block.withAnswers answers } := rfl

theorem State.withAnswers_stopInput_self (s : State) : s.withAnswers s.block.stopInput = s := rfl

variable {cfg : Config} (m : Block cfg) (answers : List StopAnswer)

@[simp] theorem status_withAnswers : (m.withAnswers answers).status = m.status := rfl
@[simp] theorem fetch_withAnswers : (m.withAnswers answers).fetch = m.fetch := rfl
@[simp] theorem readBack_withAnswers : (m.withAnswers answers).readBack = m.readBack := rfl
@[simp] theorem checkReg_withAnswers (i : Field) : (m.withAnswers answers).checkReg i = m.checkReg i := rfl

@[simp] theorem operand_withAnswers (o : Operand) : (m.withAnswers answers).operand o = m.operand o := by
  cases o <;> rfl

@[simp] theorem halt_withAnswers : (m.withAnswers answers).halt = m.halt.withAnswers answers := rfl

@[simp] theorem takeFault_withAnswers (r : Raise) :
    (m.withAnswers answers).takeFault r = (m.takeFault r).withAnswers answers := rfl

theorem writeReg_withAnswers (i : Field) (v : Word cfg.xlen) :
    (m.withAnswers answers).writeReg i v = (·.withAnswers answers) <$> m.writeReg i v := by
  by_cases hi : i.toNat < cfg.nreg
  · rw [writeReg_of_lt _ v hi, writeReg_of_lt _ v hi]
    rfl
  · rw [writeReg_of_ge _ v (Nat.le_of_not_lt hi), writeReg_of_ge _ v (Nat.le_of_not_lt hi)]
    rfl

theorem compute_withAnswers (a b : Operand) (c : Field) (f : Word cfg.xlen → Word cfg.xlen → Attempt (Word cfg.xlen)) :
    (m.withAnswers answers).compute a b c f = (·.withAnswers answers) <$> m.compute a b c f := by
  simp only [Block.compute, operand_withAnswers, checkReg_withAnswers, writeReg_withAnswers, map_bind]

theorem mirrorIp_withAnswers : (m.withAnswers answers).mirrorIp = (·.withAnswers answers) <$> m.mirrorIp := by
  unfold Block.mirrorIp
  cases hp : m.prog.ipr with
  | none => simp only [Block.withAnswers, hp]; rfl
  | some p =>
    have hw := writeReg_withAnswers m answers p m.ip
    simpa only [Block.withAnswers, hp] using hw

theorem advance_withAnswers : (m.withAnswers answers).advance = m.advance.withAnswers answers := by
  unfold Block.advance
  rw [readBack_withAnswers]
  cases m.readBack >>= nextIp <;> rfl

/-- Every instruction's effect is one `Block.compute`, run on the block (30_encoding.md R73). -/
theorem exec_eq_perform_compute (i : Instr) :
    ∃ (a b : Operand) (c : Field) (f : (cfg : Config) → Word cfg.xlen → Word cfg.xlen → Attempt (Word cfg.xlen)),
      ∀ s : State, exec i s = s.perform fun m => m.compute a b c (f s.cfg) := by
  cases i <;> exact ⟨_, _, _, _, fun _ => rfl⟩

/-- One step of a running block with its STOP source and its waiting answers factored out. Either it ends before STOP is
sampled (a fault or the natural halt), or it comes to the end of an instruction that completed, and the source and the
answers enter there alone (45_execution_loop.md R110, R117). -/
theorem stepWith_factor (h : m.status = .running) :
    (∃ t : Block cfg, ∀ (source : StopSource) (answers : List StopAnswer),
      stepWith source ⟨cfg, m.withAnswers answers⟩ = .next ⟨cfg, t.withAnswers answers⟩) ∨
    ∃ (m2 : Block cfg) (pre : List Nat), ∀ (source : StopSource) (answers : List StopAnswer),
      stepWith source ⟨cfg, m.withAnswers answers⟩ = .next ⟨cfg, (m2.withAnswers answers).complete source pre⟩ := by
  cases h1 : m.mirrorIp with
  | error r => exact .inl ⟨m.takeFault r, fun source answers => by simp [stepWith, h, mirrorIp_withAnswers, h1]⟩
  | ok m1 =>
    cases hf : m1.fetch with
    | none => exact .inl ⟨m1.halt, fun source answers => by simp [stepWith, h, mirrorIp_withAnswers, h1, hf]⟩
    | some w =>
      have hrun (source : StopSource) (answers : List StopAnswer) :
          stepWith source ⟨cfg, m.withAnswers answers⟩ = runWord source w ⟨cfg, m1.withAnswers answers⟩ := by
        simp [stepWith, h, mirrorIp_withAnswers, h1, hf]
      simp only [hrun, runWord]
      cases hd : decode w with
      | error e => exact .inl ⟨m1.takeFault (.illegalInstruction (opField w)), fun _ _ => rfl⟩
      | ok i =>
        obtain ⟨a, b, c, f, hexec⟩ := exec_eq_perform_compute i
        simp only [hexec, State.perform, compute_withAnswers]
        cases hc : m1.compute a b c (f cfg) with
        | error r => exact .inl ⟨m1.takeFault r, fun source answers => afterInstruction_of_not_running source _ nofun⟩
        | ok m2 =>
          have hm2 : m2.status = .running := by
            obtain ⟨-, -, rfl⟩ := compute_ok hc
            rw [mirrorIp_frame h1]
            exact h
          exact .inr ⟨m2, m1.snapshot, fun source answers => afterInstruction_of_running source _ hm2⟩

/-- The answer a STOP source gives at the end of a step that completed on `m`. -/
def Block.answerFrom (source : StopSource) (pre : List Nat) : StopAnswer := source m.stopInput (m.sampled pre).events

/-- The end of a completed step samples one answer: with the source's own answer first in the queue, the queue's step ends
as the source's, and the rest of the queue still waits (45_execution_loop.md R117, R118). -/
theorem complete_queuedStop (source : StopSource) (pre : List Nat) :
    (m.withAnswers (m.answerFrom source pre :: answers)).complete queuedStop pre =
      (m.complete source pre).withAnswers answers := by
  rcases complete_cases m source pre with ⟨hask, hend⟩ | ⟨hask, hend⟩
  · rw [Block.answerFrom, hask, hend]
    rfl
  · rw [Block.answerFrom, hask, hend, ← advance_withAnswers]
    rfl

/-- Every step of a running block ends in a next state, and some answers put in front of any queue take the machine's own
step to that same state and are used up by it: none, or the one answer the source gave. -/
theorem stepWith_eq_step_of_answers {s : State} (source : StopSource) (h : s.block.status = .running) :
    ∃ (t : State) (asked : List StopAnswer), stepWith source s = .next t ∧
      ∀ later : List StopAnswer, stepWith queuedStop (s.withAnswers (asked ++ later)) = .next (t.withAnswers later) := by
  rcases stepWith_factor s.block h with ⟨t, hstep⟩ | ⟨m2, pre, hstep⟩
  · exact ⟨_, [], hstep source s.block.stopInput, fun later => hstep queuedStop later⟩
  · refine ⟨_, [(m2.withAnswers s.block.stopInput).answerFrom source pre], hstep source s.block.stopInput, fun later => ?_⟩
    rw [State.withAnswers_eq, hstep, State.withAnswers_eq, ← complete_queuedStop]
    rfl

end Sys2Proof.Machine
end

section
/-! The equations of a run under fuel, and the statement O37 by induction on the fuel. -/

namespace Sys2Proof.Machine

variable {s : State} (source : StopSource)

theorem runWith_of_not_running (fuel : Nat) (h : s.block.status ≠ .running) : runWith source fuel s = .ended s := by
  cases fuel <;> simp [runWith, h]

theorem runWith_succ_of_running {fuel : Nat} {t : State} (h : s.block.status = .running)
    (hstep : stepWith source s = .next t) : runWith source (fuel + 1) s = runWith source fuel t := by
  simp [runWith, h, hstep]

/-- A run under any STOP source is the machine's own run with some answers waiting: those each step in turn asks for. -/
theorem runWith_eq_queued_run (fuel : Nat) (s : State) :
    ∃ answers : List StopAnswer,
      (runWith source fuel s).map (fun t => t.withAnswers []) =
        (runWith queuedStop fuel (s.withAnswers answers)).map (fun t => t.withAnswers []) := by
  induction fuel generalizing s with
  | zero => exact ⟨s.block.stopInput, rfl⟩
  | succ fuel ih =>
    by_cases h : s.block.status = .running
    · obtain ⟨t, asked, hsource, hqueue⟩ := stepWith_eq_step_of_answers source h
      obtain ⟨later, hlater⟩ := ih t
      refine ⟨asked ++ later, ?_⟩
      rw [runWith_succ_of_running source h hsource, runWith_succ_of_running queuedStop (by simpa using h) (hqueue later),
        hlater]
    · refine ⟨s.block.stopInput, ?_⟩
      rw [State.withAnswers_stopInput_self, runWith_of_not_running source _ h, runWith_of_not_running queuedStop _ h]

end Sys2Proof.Machine

namespace Sys2Proof.Proofs

open Sys2Proof.Machine

/-- Settles O37: a debug-run is a run under one STOP source, so it is some queue's run (`runWith_eq_queued_run`). -/
theorem everyDebuggerIsAQueueOfAnswers : Obligations.EveryDebuggerIsAQueueOfAnswers := fun oracle =>
  runWith_eq_queued_run (oracleStop oracle)

end Sys2Proof.Proofs
end

section
/-! How a step of a running block can end, said once, and the statements of 10_state.md about every step, by cases on
the ending: O30, O17, O27 and O25. -/

namespace Sys2Proof.Machine

variable {cfg : Config}

/-- `m` with this register file. -/
def Block.withRegs (m : Block cfg) (regs : Vector (Word cfg.xlen) cfg.nreg) : Block cfg := { m with regs := regs }

/-- The blocks a step of the running block `m` can end in. Up to the step event only the registers change, so each ending
starts from `m` with some register file (45_execution_loop.md R110). -/
inductive StepEnd (source : StopSource) (m : Block cfg) : Block cfg → Prop where
  /-- A raise in step 1 or step 2: no step event (60_exceptions.md R131). -/
  | raised (regs : Vector (Word cfg.xlen) cfg.nreg) (r : Raise) :
      StepEnd source m ((m.withRegs regs).takeFault r)
  /-- The natural halt (45_execution_loop.md R112). -/
  | halted (regs : Vector (Word cfg.xlen) cfg.nreg) (hpast : ¬m.addressesInstruction)
      (hmirror : (m.withRegs regs).mirrorsIp) :
      StepEnd source m (m.withRegs regs).halt
  /-- STOP answered stop to the step event (45_execution_loop.md R118). -/
  | stopped (regs : Vector (Word cfg.xlen) cfg.nreg) (pre : List Nat) (hin : m.addressesInstruction)
      (hask : source m.stopInput ((m.withRegs regs).sampled pre).events = .stop) :
      StepEnd source m { (m.withRegs regs).sampled pre with status := .stopped }
  /-- Step 4 read back `v` and step 5 moved `ip` to its successor (45_execution_loop.md R114, R115). -/
  | advanced (regs : Vector (Word cfg.xlen) cfg.nreg) (pre : List Nat) (v : Word cfg.xlen)
      (hin : m.addressesInstruction)
      (hask : source m.stopInput ((m.withRegs regs).sampled pre).events = .proceed)
      (hback : ((m.withRegs regs).sampled pre).readBack = .ok v) (hv : v ≠ maxWord cfg.xlen) :
      StepEnd source m { (m.withRegs regs).sampled pre with ip := v + 1 }
  /-- A raise in step 4 or step 5, after the step event (45_execution_loop.md R116). -/
  | raisedAfterEvent (regs : Vector (Word cfg.xlen) cfg.nreg) (pre : List Nat) (r : Raise)
      (hin : m.addressesInstruction)
      (hask : source m.stopInput ((m.withRegs regs).sampled pre).events = .proceed)
      (hraise : ((m.withRegs regs).sampled pre).readBack >>= nextIp = .error r) :
      StepEnd source m (((m.withRegs regs).sampled pre).takeFault r)

variable {m m1 : Block cfg} {source : StopSource}

/-- After step 1 the bound register holds `ip` (45_execution_loop.md R111). -/
theorem mirrorsIp_of_mirrorIp (h : m.mirrorIp = .ok m1) : m1.mirrorsIp := by
  intro p hp
  rcases mirrorIp_ok h with ⟨hnone, rfl⟩ | ⟨q, hq, hsome, rfl⟩
  · rw [hnone] at hp
    cases hp
  · obtain rfl : q = p := Option.some.inj (hsome.symm.trans hp)
    exact readReg_of_writeReg_same (writeReg_of_lt m m.ip hq)

theorem addressesInstruction_of_fetch {w : InstrWord} (h : m.fetch = some w) : m.addressesInstruction := by
  refine Nat.lt_of_not_le fun hle => ?_
  rw [fetch_eq_none.mpr hle] at h
  cases h

/-- Every end of a step whose instruction completed is one of the last three endings. -/
theorem complete_stepEnd (regs : Vector (Word cfg.xlen) cfg.nreg) (pre : List Nat) (hin : m.addressesInstruction) :
    StepEnd source m ((m.withRegs regs).complete source pre) := by
  rcases complete_cases (m.withRegs regs) source pre with ⟨hask, hend⟩ | ⟨hask, hend⟩
  · rw [hend]
    exact .stopped regs pre hin hask
  · rw [hend]
    rcases advance_cases ((m.withRegs regs).sampled pre) with
      ⟨v, hback, hv, hadv⟩ | ⟨hback, hadv⟩ | ⟨r, hback, hadv⟩
    · rw [hadv]
      exact .advanced regs pre v hin hask hback hv
    · rw [hadv]
      exact .raisedAfterEvent regs pre _ hin hask (by rw [hback]; exact if_pos rfl)
    · rw [hadv]
      exact .raisedAfterEvent regs pre r hin hask (by rw [hback]; rfl)

/-- Running an instruction on a running block leaves one of the block's endings (30_encoding.md R76). -/
theorem afterInstruction_stepEnd (regs : Vector (Word cfg.xlen) cfg.nreg) (pre : List Nat) (i : Instr)
    (h : m.status = .running) (hin : m.addressesInstruction) :
    ∃ m' : Block cfg, afterInstruction source pre (exec i ⟨cfg, m.withRegs regs⟩) = .next ⟨cfg, m'⟩ ∧
      StepEnd source m m' := by
  obtain ⟨a, b, c, f, hexec⟩ := exec_eq_perform_compute i
  rw [hexec]
  rcases perform_cases ⟨cfg, m.withRegs regs⟩ (fun m => m.compute a b c (f cfg)) with ⟨m2, hwork, hperf⟩ | ⟨r, -, hperf⟩
  · rw [hperf]
    obtain ⟨hc, v, rfl⟩ := compute_ok hwork
    exact ⟨_, afterInstruction_of_running source pre h, complete_stepEnd (regs.set c.toNat v hc) pre hin⟩
  · rw [hperf]
    exact ⟨_, afterInstruction_of_not_running source pre nofun, .raised regs r⟩

/-- Every step of a running block answers a next state with the same parameters, in one of the endings. -/
theorem stepWith_stepEnd (source : StopSource) (h : m.status = .running) :
    ∃ m' : Block cfg, stepWith source ⟨cfg, m⟩ = .next ⟨cfg, m'⟩ ∧ StepEnd source m m' := by
  rcases stepWith_cases source h with ⟨r, -, hstep⟩ | ⟨m1, hm1, hrest⟩
  · exact ⟨_, hstep, .raised m.regs r⟩
  · have hregs : m1 = m.withRegs m1.regs := mirrorIp_frame hm1
    rcases hrest with ⟨hf, hstep⟩ | ⟨w, e, -, -, hstep⟩ | ⟨w, i, hf, -, hstep⟩
    · have hmirror := mirrorsIp_of_mirrorIp hm1
      rw [hregs] at hf hmirror hstep
      exact ⟨_, hstep, .halted m1.regs (Nat.not_lt.mpr (fetch_eq_none.mp hf)) hmirror⟩
    · rw [hregs] at hstep
      exact ⟨_, hstep, .raised m1.regs _⟩
    · have hin := addressesInstruction_of_fetch hf
      rw [hregs] at hin hstep
      rw [hstep]
      exact afterInstruction_stepEnd m1.regs _ i h hin

/-- Everything a machine step that answers a next state can be: a step of a running block, in one of its endings. -/
theorem step_stepEnd {s t : State} (h : step s = .next t) :
    s.block.status = .running ∧ ∃ m' : Block s.cfg, t = ⟨s.cfg, m'⟩ ∧ StepEnd queuedStop s.block m' := by
  by_cases hrun : s.block.status = .running
  · obtain ⟨m', hstep, hend⟩ := stepWith_stepEnd queuedStop hrun
    exact ⟨hrun, m', Host.Outcome.next.inj (h.symm.trans hstep), hend⟩
  · have hstuck : step s = _ := stepWith_of_not_running queuedStop hrun
    rw [hstuck] at h
    cases h

/-! `Block.consistent`, one equivalence per STATE. -/

theorem consistent_iff_of_running (h : m.status = .running) :
    m.consistent ↔ m.noFaultRecord ∧ onlySteps m.events := by
  simp only [Block.consistent, h]

theorem consistent_iff_of_halted (h : m.status = .halted) :
    m.consistent ↔ m.noFaultRecord ∧ ¬m.addressesInstruction ∧ m.mirrorsIp ∧
      ∃ before, onlySteps before ∧ m.events = .halt m.ip.toNat :: before := by
  simp only [Block.consistent, h]

theorem consistent_iff_of_stopped (h : m.status = .stopped) :
    m.consistent ↔ m.noFaultRecord ∧ m.addressesInstruction ∧
      ∃ before pre, onlySteps before ∧ m.events = .step ⟨m.ip.toNat, pre, m.snapshot⟩ :: before := by
  simp only [Block.consistent, h]

theorem consistent_iff_of_faulted (h : m.status = .faulted) :
    m.consistent ↔ m.faultCause ≠ .noFault ∧ m.faultIp = m.ip ∧
      ∃ before, onlySteps before ∧
        m.events = .fault m.faultCause.code m.faultIp.toNat m.faultInfo.toNat :: before := by
  simp only [Block.consistent, h]

theorem Raise.cause_ne_noFault (r : Raise) : r.cause ≠ .noFault := by
  cases r <;> nofun

/-- Fault entry gives a consistent block wherever only step events stand before it (60_exceptions.md R131). -/
theorem takeFault_consistent (r : Raise) (h : onlySteps m.events) : (m.takeFault r).consistent :=
  (consistent_iff_of_faulted rfl).mpr ⟨r.cause_ne_noFault, rfl, m.events, h, rfl⟩

theorem onlySteps_cons_step {events : List Event} (e : StepEvent) (h : onlySteps events) :
    onlySteps (.step e :: events) :=
  List.forall_mem_cons.mpr ⟨rfl, h⟩

/-- Every ending of a step of a consistent running block is consistent. -/
theorem StepEnd.consistent {m' : Block cfg} (hend : StepEnd source m m') (hrun : m.status = .running)
    (hm : m.consistent) : m'.consistent := by
  obtain ⟨hrecord, hevents⟩ := (consistent_iff_of_running hrun).mp hm
  cases hend with
  | raised regs r => exact takeFault_consistent r hevents
  | halted regs hpast hmirror =>
    exact (consistent_iff_of_halted rfl).mpr ⟨hrecord, hpast, hmirror, m.events, hevents, rfl⟩
  | stopped regs pre hin =>
    exact (consistent_iff_of_stopped rfl).mpr ⟨hrecord, hin, m.events, pre, hevents, rfl⟩
  | advanced regs pre v =>
    refine (consistent_iff_of_running ?_).mpr ⟨hrecord, onlySteps_cons_step _ hevents⟩
    exact hrun
  | raisedAfterEvent regs pre r =>
    exact takeFault_consistent r (onlySteps_cons_step _ hevents)

/-- Program, binding and earlier events are the same in every ending (10_state.md R45). -/
theorem StepEnd.prog_earlier {m' : Block cfg} (hend : StepEnd source m m') :
    m'.prog = m.prog ∧ m'.earlier = m.earlier := by
  cases hend <;> exact ⟨rfl, rfl⟩

/-- The fault record of an ending: written in the two that raise, and as before in the three that are not FAULTED
(10_state.md R32). -/
theorem StepEnd.faultRecord {m' : Block cfg} (hend : StepEnd source m m') (hrun : m.status = .running) :
    (m'.status = .faulted ∧ m'.faultIp = m.ip ∧ m'.faultCause ≠ .noFault) ∨
    (m'.status ≠ .faulted ∧
      m'.faultCause = m.faultCause ∧ m'.faultIp = m.faultIp ∧ m'.faultInfo = m.faultInfo) := by
  cases hend with
  | raised _ r | raisedAfterEvent _ _ r => exact .inl ⟨rfl, rfl, r.cause_ne_noFault⟩
  | halted | stopped => exact .inr ⟨nofun, rfl, rfl, rfl⟩
  | advanced =>
    refine .inr ⟨?_, rfl, rfl, rfl⟩
    exact hrun.trans_ne nofun

end Sys2Proof.Machine

namespace Sys2Proof.Proofs

open Sys2Proof.Machine

/-- Settles O30: a step that answers a next state starts from a running block, and each ending of its step keeps the
invariant (`StepEnd.consistent`). -/
theorem everyStepKeepsConsistency : Obligations.EveryStepKeepsConsistency := by
  intro s t hs hstep
  obtain ⟨hrun, m', rfl, hend⟩ := step_stepEnd hstep
  exact hend.consistent hrun hs

/-- Settles O17: `StepEnd.faultRecord` for the steps; reset writes the empty record, and FAULTED takes no step. -/
theorem faultRecordWrittenOnlyOnFault : Obligations.FaultRecordWrittenOnlyOnFault := by
  refine ⟨⟨rfl, rfl, rfl⟩, fun s prog regs => ⟨rfl, rfl, rfl⟩, fun cfg m m' hstep => ?_, fun s t hfault hstep => ?_⟩
  · obtain ⟨hrun, _, ht, hend⟩ := step_stepEnd hstep
    cases ht
    rcases hend.faultRecord hrun with ⟨hfault, hwritten⟩ | ⟨hsafe, hkept⟩
    · exact ⟨fun hsafe => absurd hfault hsafe, fun _ => hwritten⟩
    · exact ⟨fun _ => hkept, fun hfault => absurd hfault hsafe⟩
  · exact absurd (hfault.symm.trans (step_stepEnd hstep).1) nofun

/-- Settles O27: the endings keep the parameters by their type, and program and earlier events by `StepEnd.prog_earlier`. -/
theorem programAndParametersNeverChange : Obligations.ProgramAndParametersNeverChange := by
  intro s t hstep
  obtain ⟨-, m', rfl, hend⟩ := step_stepEnd hstep
  exact ⟨rfl, hend.prog_earlier⟩

/-- Settles O25: a step looks at STATE first, under every STOP source. -/
theorem terminalStatesTakeNoStep : Obligations.TerminalStatesTakeNoStep := fun _ source h =>
  ⟨stepWith_of_not_running queuedStop h, stepWith_of_not_running source h⟩

end Sys2Proof.Proofs
end

section
/-! The block registers on CSR_OUT: the value of each word, and the statement O32 about them (10_state.md R35, R44). -/

namespace Sys2Proof.Machine

/-- STATUS before it is widened to `XLEN` bits: `FAULT_CAUSE` four places above `STATE` (10_state.md R35). -/
theorem toNat_statusFields (cause : BitVec 4) (status : BitVec 2) :
    (cause ++ (0 : BitVec 2) ++ status).toNat = status.toNat + 16 * cause.toNat := by
  have hlow := status.isLt
  have hgap : (0 : BitVec 2).toNat = 0 := rfl
  rw [BitVec.toNat_append, ← Nat.shiftLeft_add_eq_or_of_lt hlow, BitVec.toNat_append, hgap, Nat.or_zero,
    Nat.shiftLeft_eq, Nat.shiftLeft_eq]
  omega

theorem toNat_statusWord {s : State} (h : 32 ≤ s.cfg.xlen) :
    s.statusWord.toNat = s.block.status.code.toNat + 16 * s.block.faultCause.code.toNat := by
  rw [State.statusWord, BitVec.toNat_setWidth_of_le (by omega), toNat_statusFields]

theorem csrOut_of_gt (s : State) {index : Nat} (h : 7 < index) : s.csrOut index = 0 := by
  obtain ⟨k, rfl⟩ : ∃ k, index = k + 8 := ⟨index - 8, by omega⟩
  rfl

end Sys2Proof.Machine

namespace Sys2Proof.Proofs

open Sys2Proof.Machine

/-- Settles O32, register by register; `32 ≤ XLEN` is what keeps STATUS and the bound index whole. -/
theorem blockRegistersReadTheState : Obligations.BlockRegistersReadTheState := by
  intro s h
  have hone : 1 % 2 ^ s.cfg.xlen = 1 := Nat.mod_eq_of_lt (Nat.one_lt_two_pow (by omega))
  refine ⟨toNat_statusWord h, rfl, rfl, rfl, BitVec.toNat_ofNat .., fun hnone => ?_, fun p hp => ?_,
    BitVec.toNat_ofNat .., fun index => csrOut_of_gt s⟩
  · simp [State.csrOut, hnone]
  · have hindex : (p.setWidth s.cfg.xlen).toNat = p.toNat := toNat_zext h p
    simp [State.csrOut, hp, hone, hindex, -BitVec.toNat_setWidth]

end Sys2Proof.Proofs
end

section
/-! The byte image of a word, bit by bit, and the statement O13 about it (20_memory.md R50). -/

namespace Sys2Proof

theorem bytesOfWord_getElem? (w : InstrWord) {j : Nat} (h : j < 16) :
    (bytesOfWord w)[j]? = some (w.extractLsb' (8 * j) 8) := by
  simp [bytesOfWord, h]

theorem wordOfBytes_cons (b : Byte) (bs : List Byte) :
    wordOfBytes (b :: bs) = (wordOfBytes bs <<< 8) ||| b.setWidth 128 := rfl

/-- Bit `i` of the word read from an image is bit `i % 8` of byte `i / 8`, and 0 past the image's end. -/
theorem getLsbD_wordOfBytes (bs : List Byte) {i : Nat} (hi : i < 128) :
    (wordOfBytes bs).getLsbD i = (bs[i / 8]?.getD 0).getLsbD (i % 8) := by
  induction bs generalizing i with
  | nil => simp [wordOfBytes]
  | cons b bs ih =>
    rw [wordOfBytes_cons, BitVec.getLsbD_or, BitVec.getLsbD_shiftLeft, BitVec.getLsbD_setWidth]
    by_cases hlow : i < 8
    · simp [hi, hlow, Nat.div_eq_of_lt hlow, Nat.mod_eq_of_lt hlow]
    · obtain ⟨k, rfl⟩ : ∃ k, i = k + 8 := ⟨i - 8, by omega⟩
      simp [hi, ih (show k < 128 by omega)]

/-- Bit `i` of a word sits at place `i % 8` of byte `i / 8` of its image, since `8 * (i / 8) + i % 8 = i`. -/
theorem wordOfBytes_bytesOfWord (w : InstrWord) : wordOfBytes (bytesOfWord w) = w := by
  refine BitVec.eq_of_getLsbD_eq fun i hi => ?_
  have hplace : i % 8 < 8 := Nat.mod_lt i (by decide)
  rw [getLsbD_wordOfBytes _ hi, bytesOfWord_getElem? w (show i / 8 < 16 by omega), Option.getD_some,
    BitVec.getLsbD_extractLsb', Nat.div_add_mod, decide_eq_true hplace, Bool.true_and]

end Sys2Proof

namespace Sys2Proof.Proofs

/-- Settles O13: byte `j` by the definition of the image, and the way back bit by bit (`wordOfBytes_bytesOfWord`). -/
theorem programImageIsLittleEndian : Obligations.ProgramImageIsLittleEndian := fun w =>
  ⟨Laws.bytesOfWord_length w, fun _ h => bytesOfWord_getElem? w h, wordOfBytes_bytesOfWord w⟩

end Sys2Proof.Proofs
end

section
/-! The decoder as a function of the word's fields: which numbers it refuses, its two round trips with the encoder, and the
statements O9, O10 and O12 about it. -/

namespace Sys2Proof

theorem ofCode_eq_none_iff {v : Field} : Opcode.ofCode v = none ↔ 16 ≤ v.toNat := by
  have some_of_lt : ∀ n < 16, Opcode.ofCode (BitVec.ofNat 32 n) ≠ none := by decide
  refine ⟨fun h => Nat.le_of_not_lt fun hlt => some_of_lt v.toNat hlt ?_, Laws.ofCode_eq_none⟩
  rwa [BitVec.ofNat_toNat, BitVec.setWidth_eq]

theorem decode_of_opcode {w : InstrWord} {op : Opcode} (h : op.code = opField w) :
    decode w = .ok (Instr.ofFields op (aField w) (bField w) (cField w)) := by
  rw [decode, ← h, Laws.ofCode_code]

theorem decode_of_ge {w : InstrWord} (h : 16 ≤ (opField w).toNat) : decode w = .error (.illegalOpcode (opField w)) := by
  rw [decode, Laws.ofCode_eq_none h]

/-- Everything a word that decodes can be: its `OP` is some opcode's number, its other fields are the slots
(30_encoding.md R72, R78). -/
theorem decode_ok {w : InstrWord} {i : Instr} (h : decode w = .ok i) :
    ∃ op : Opcode, op.code = opField w ∧ i = Instr.ofFields op (aField w) (bField w) (cField w) := by
  rcases Laws.decode_cases w with ⟨op, hop, hdec⟩ | ⟨-, hdec⟩
  · exact ⟨op, Laws.code_of_ofCode hop, Except.ok.inj (h.symm.trans hdec)⟩
  · exact absurd (h.symm.trans hdec) nofun

/-- A word decodes exactly below `OP = 16` (30_encoding.md R77). -/
theorem exists_decode_ok_of_lt {w : InstrWord} (h : (opField w).toNat < 16) : ∃ i : Instr, decode w = .ok i := by
  rcases Laws.decode_cases w with ⟨op, -, hdec⟩ | ⟨hnone, -⟩
  · exact ⟨_, hdec⟩
  · exact absurd (ofCode_eq_none_iff.mp hnone) (Nat.not_le.mpr h)

theorem encode_ofFields (op : Opcode) (a b c : Field) :
    encode (Instr.ofFields op a b c) = wordOfFields op.code a b c := by
  simp [encode]

theorem decode_wordOfFields (op : Opcode) (a b c : Field) :
    decode (wordOfFields op.code a b c) = .ok (Instr.ofFields op a b c) := by
  obtain ⟨hop, ha, hb, hc⟩ := Laws.fields_of_wordOfFields op.code a b c
  rw [decode_of_opcode hop.symm, ha, hb, hc]

theorem decode_encode (i : Instr) : decode (encode i) = .ok i := by
  rw [encode, decode_wordOfFields, Laws.ofFields_slots]

/-- The four fields cover the word: bit `j` lies in field `j / 32` (30_encoding.md R65). -/
theorem wordOfFields_of_fields (w : InstrWord) : wordOfFields (opField w) (aField w) (bField w) (cField w) = w := by
  refine BitVec.eq_of_getLsbD_eq fun j hj => ?_
  simp only [wordOfFields, opField, aField, bField, cField, BitVec.getLsbD_append, BitVec.getLsbD_extractLsb']
  split_ifs with hop ha hb
  · simp [hop]
  · simp [ha, show 32 + (j - 32) = j by omega]
  · simp [hb, show 64 + (j - 32 - 32) = j by omega]
  · simp [show j - 32 - 32 - 32 < 32 by omega, show 96 + (j - 32 - 32 - 32) = j by omega]

/-- The decoder reads the first word of an image and leaves the bytes behind it (30_encoding.md R79). -/
theorem decodeBytes_of_decode {w : InstrWord} {i : Instr} (h : decode w = .ok i) (rest : List Byte) :
    decodeBytes (bytesOfWord w ++ rest) = .ok (i, rest) := by
  have hlen := Laws.bytesOfWord_length w
  have hlong : ¬(bytesOfWord w ++ rest).length < 16 := by rw [List.length_append]; omega
  rw [decodeBytes, if_neg hlong, List.take_left' hlen, List.drop_left' hlen, wordOfBytes_bytesOfWord, h]

end Sys2Proof

namespace Sys2Proof.Proofs

/-- Settles O9: on words by `decode_encode`; an image is then decoded as the word it holds (`decodeBytes_of_decode`). -/
theorem decodeOfEncodeIsTheInstruction : Obligations.DecodeOfEncodeIsTheInstruction := fun i rest =>
  ⟨decode_encode i, decodeBytes_of_decode (decode_encode i) rest⟩

/-- Settles O10: what a word decodes to holds all four fields, and these are the whole word (`wordOfFields_of_fields`). -/
theorem encodeOfDecodeIsTheWord : Obligations.EncodeOfDecodeIsTheWord := by
  intro w i h
  obtain ⟨op, hop, rfl⟩ := decode_ok h
  rw [encode_ofFields, hop, wordOfFields_of_fields]

/-- Settles O12, by running the decoder on each word. -/
theorem sampleWordsDecode : Obligations.SampleWordsDecode := ⟨rfl, rfl, rfl, rfl, rfl, rfl, rfl⟩

end Sys2Proof.Proofs
end

section
/-! The control table against the meanings: each instruction's effect is the one its row of the table selects, and the
statements O7, O8 and O11 (30_encoding.md R68, R72 to R76). -/

namespace Sys2Proof.Machine

/-- The operand form an `A_SEL` stands for. -/
def ASel.operand (a : Field) : ASel → Operand
  | .reg => .reg a
  | .imm => .imm a

/-- The operand form a `B_SEL` stands for. -/
def BSel.operand (b : Field) : BSel → Operand
  | .reg => .reg b
  | .imm => .imm b
  | .unused => .unused

/-- The result function an `FN` stands for, of those the meanings are written with. -/
def Fn.result (cfg : Config) : Fn → Word cfg.xlen → Word cfg.xlen → Attempt (Word cfg.xlen)
  | .add => resultAdd cfg
  | .mul => resultMul cfg
  | .and => resultAnd cfg
  | .or => resultOr cfg
  | .passA => resultPassA cfg
  | .gt => resultGt cfg
  | .eq => resultEq cfg

/-- The instruction a row of the control table makes of three slots (30_encoding.md R73, R74). -/
def Control.compute {cfg : Config} (ctl : Control) (a b c : Field) (m : Block cfg) : Attempt (Block cfg) :=
  m.compute (ctl.aSel.operand a) (ctl.bSel.operand b) c (ctl.fn.result cfg)

variable {cfg : Config} (m : Block cfg)

theorem selectA_eq_operand (sel : ASel) (a : Field) : m.selectA sel a = m.operand (sel.operand a) := by
  cases sel <;> rfl

theorem selectB_eq_operand (sel : BSel) (b : Field) : m.selectB sel b = m.operand (sel.operand b) := by
  cases sel <;> rfl

theorem boolWord_decide (xlen : Nat) (p : Prop) [Decidable p] : boolWord xlen (decide p) = if p then 1 else 0 := by
  by_cases hp : p <;> simp [boolWord, hp]

/-- The multiplexer's comparisons are of words, the meanings' of their numbers; the other inputs are the same. -/
theorem dispatchMux_eq_result (fn : Fn) (va vb : Word cfg.xlen) : dispatchMux cfg fn va vb = fn.result cfg va vb := by
  cases fn with
  | gt => simp only [dispatchMux, Fn.result, resultGt, boolWord_decide, BitVec.lt_def, gt_iff_lt]
  | eq => simp only [dispatchMux, Fn.result, resultEq, boolWord_decide, BitVec.toNat_inj]
  | add | mul | and | or | passA => rfl

theorem decodeControl_eq_none_iff {v : Field} : decodeControl v = none ↔ 16 ≤ v.toNat :=
  List.getElem?_eq_none_iff

theorem executeWord_of_control {w : InstrWord} {ctl : Control} (h : decodeControl (opField w) = some ctl) :
    m.executeWord w = ctl.compute (aField w) (bField w) (cField w) m := by
  simp only [Block.executeWord, h, selectA_eq_operand, selectB_eq_operand, dispatchMux_eq_result, Control.compute,
    Block.compute]

theorem executeWord_of_ge {w : InstrWord} (h : 16 ≤ (opField w).toNat) :
    m.executeWord w = .error (.illegalInstruction (opField w)) := by
  simp only [Block.executeWord, decodeControl_eq_none_iff.mpr h]

/-- Each instruction's own meaning is what the control table's row for its opcode selects (30_encoding.md R75). -/
theorem exec_eq_perform_control (i : Instr) :
    ∃ ctl : Control, decodeControl i.opcode.code = some ctl ∧
      ∀ s : State, exec i s = s.perform (ctl.compute i.slotA i.slotB i.slotC) := by
  cases i <;> exact ⟨_, rfl, fun _ => rfl⟩

end Sys2Proof.Machine

namespace Sys2Proof.Proofs

open Sys2Proof.Machine

/-- Settles O7: every instruction's work is one `Block.compute` on its slot C, which writes that register or raises. -/
theorem oneRegisterWriteOrFaultEntry : Obligations.OneRegisterWriteOrFaultEntry := by
  intro cfg m i
  obtain ⟨ctl, -, hexec⟩ := exec_eq_perform_control i
  rcases perform_cases ⟨cfg, m⟩ (ctl.compute i.slotA i.slotB i.slotC) with ⟨m', hwork, hperf⟩ | ⟨r, -, hperf⟩
  · obtain ⟨hc, v, rfl⟩ := compute_ok hwork
    exact .inl ⟨hc, v, trivial, (hexec _).trans hperf⟩
  · exact .inr ⟨r, (hexec _).trans hperf⟩

/-- Settles O8: below 16 the word's control values are those of the decoded instruction (`exec_eq_perform_control`), and
from 16 on both ways raise before any operand is read. -/
theorem datapathEqualsMeanings : Obligations.DatapathEqualsMeanings := by
  intro w s
  rcases Nat.lt_or_ge (opField w).toNat 16 with hlt | hge
  · obtain ⟨i, hdec⟩ := exists_decode_ok_of_lt hlt
    obtain ⟨op, hop, rfl⟩ := decode_ok hdec
    obtain ⟨ctl, hctl, hexec⟩ := exec_eq_perform_control (Instr.ofFields op (aField w) (bField w) (cField w))
    rw [Laws.opcode_ofFields, hop] at hctl
    simp only [hdec, hexec, executeWord_of_control _ hctl, Laws.slotA_ofFields, Laws.slotB_ofFields, Laws.slotC_ofFields]
  · rw [decode_of_ge hge]
    exact perform_of_raise (executeWord_of_ge s.block hge)

/-- Settles O11: the fields of a word that decodes are its instruction's (`decode_ok`), and the decoder and the control
table both refuse from 16 on. -/
theorem onlyOpcodesAboveFifteenAreIllegal : Obligations.OnlyOpcodesAboveFifteenAreIllegal := by
  intro w
  refine ⟨fun hlt => ?_, decode_of_ge, decodeControl_eq_none_iff⟩
  obtain ⟨i, hdec⟩ := exists_decode_ok_of_lt hlt
  obtain ⟨op, hop, rfl⟩ := decode_ok hdec
  exact ⟨_, hdec, (congrArg Opcode.code (Laws.opcode_ofFields ..)).trans hop, Laws.slotA_ofFields ..,
    Laws.slotB_ofFields .., Laws.slotC_ofFields ..⟩

end Sys2Proof.Proofs
end

section
/-! The number of a word put together from fields, and the statement O41 about the assembler (30_encoding.md R66, R85). -/

namespace Sys2Proof

/-- The number of a concatenation: the high part counts in units of the low part's range. -/
theorem toNat_append_eq_add {n k : Nat} (high : BitVec n) (low : BitVec k) :
    (high ++ low).toNat = low.toNat + high.toNat * 2 ^ k := by
  rw [BitVec.toNat_append, ← Nat.shiftLeft_add_eq_or_of_lt low.isLt, Nat.shiftLeft_eq, Nat.add_comm]

theorem toNat_wordOfFields (op a b c : Field) :
    (wordOfFields op a b c).toNat = op.toNat + a.toNat * 2 ^ 32 + b.toNat * 2 ^ 64 + c.toNat * 2 ^ 96 := by
  simp only [wordOfFields, toNat_append_eq_add]
  omega

end Sys2Proof

namespace Sys2Proof.Machine

theorem assemble_of_wf {i : SourceInstr} (h : i.wf) :
    assemble i = .ok (wordOfFields i.opcode.code (BitVec.ofNat 32 i.inputA) (BitVec.ofNat 32 i.inputB)
      (BitVec.ofNat 32 i.output)) := by
  rw [assemble, if_pos h, encode_ofFields]

theorem assemble_of_not_wf {i : SourceInstr} (h : ¬i.wf) : assemble i = .error .operandTooLarge :=
  if_neg h

end Sys2Proof.Machine

namespace Sys2Proof.Proofs

open Sys2Proof.Machine

/-- Settles O41: operands that fit keep their numbers as fields, and the word's number is the fields' sum. -/
theorem assemblerEncodesExactlyTheFittingOperands : Obligations.AssemblerEncodesExactlyTheFittingOperands := by
  intro i
  refine ⟨fun ha hb hc => ⟨_, assemble_of_wf ⟨ha, hb, hc⟩, ?_⟩, fun hlarge => assemble_of_not_wf ?_⟩
  · rw [toNat_wordOfFields, BitVec.toNat_ofNat, BitVec.toNat_ofNat, BitVec.toNat_ofNat, Nat.mod_eq_of_lt ha,
      Nat.mod_eq_of_lt hb, Nat.mod_eq_of_lt hc]
  · rintro ⟨ha, hb, hc⟩
    omega

end Sys2Proof.Proofs
end

section
/-! How an instruction that is one `Block.compute` completes or raises, what `Fit` makes of it, and the statement O1 about
add and multiply (30_encoding.md R73, R74; 40_arithmetic.md R89). -/

namespace Sys2Proof.Machine

variable {cfg : Config} {m : Block cfg} {i : Instr} {a b : Operand} {c : Field} {va vb : Word cfg.xlen}
  {f : Word cfg.xlen → Word cfg.xlen → Attempt (Word cfg.xlen)}

theorem completesWith_of_compute {v : Word cfg.xlen} {result : Word cfg.xlen → Prop}
    (hexec : exec i ⟨cfg, m⟩ = State.perform ⟨cfg, m⟩ fun m => m.compute a b c f)
    (hva : m.operand a = .ok va) (hvb : m.operand b = .ok vb) (hc : c.toNat < cfg.nreg)
    (hv : f va vb = .ok v) (hresult : result v) : completesWith m i c result :=
  ⟨hc, v, hresult, hexec.trans (perform_of_ok (compute_of_ok hva hvb hc hv))⟩

theorem raisesOn_of_compute {r : Raise}
    (hexec : exec i ⟨cfg, m⟩ = State.perform ⟨cfg, m⟩ fun m => m.compute a b c f)
    (hva : m.operand a = .ok va) (hvb : m.operand b = .ok vb) (hc : c.toNat < cfg.nreg)
    (hr : f va vb = .error r) : raisesOn m i r :=
  hexec.trans (perform_of_raise (compute_of_raise hva hvb hc hr))

/-- An instruction whose function fits the exact result `s` follows `OVERFLOW_MODE` in each case of `Fit(s)`
(40_arithmetic.md R89). -/
theorem followsFit_of_compute {s : Nat}
    (hexec : exec i ⟨cfg, m⟩ = State.perform ⟨cfg, m⟩ fun m => m.compute a b c f)
    (hva : m.operand a = .ok va) (hvb : m.operand b = .ok vb) (hc : c.toNat < cfg.nreg)
    (hf : f va vb = fit cfg s) : followsFit m i c s := by
  refine ⟨fun hfits => ?_, fun hover hmode => ?_, fun hover hmode => ?_⟩
  · exact completesWith_of_compute hexec hva hvb hc (hf.trans (fit_of_lt hfits))
      ((BitVec.toNat_ofNat ..).trans (Nat.mod_eq_of_lt hfits))
  · exact raisesOn_of_compute hexec hva hvb hc (hf.trans (fit_of_overflow hover hmode))
  · exact completesWith_of_compute hexec hva hvb hc (hf.trans (fit_of_wrap hover hmode)) (BitVec.toNat_ofNat ..)

theorem resultAdd_zext (h : 32 ≤ cfg.xlen) (va : Word cfg.xlen) (b : Field) :
    resultAdd cfg va (zext cfg.xlen b) = fit cfg (va.toNat + b.toNat) := by
  rw [resultAdd, toNat_zext h]

theorem resultMul_zext (h : 32 ≤ cfg.xlen) (va : Word cfg.xlen) (b : Field) :
    resultMul cfg va (zext cfg.xlen b) = fit cfg (va.toNat * b.toNat) := by
  rw [resultMul, toNat_zext h]

end Sys2Proof.Machine

namespace Sys2Proof.Proofs

open Sys2Proof.Machine

/-- Settles O1: each of the four is one `Block.compute` whose function is `fit` of the exact sum or product
(`followsFit_of_compute`); `32 ≤ XLEN` keeps an immediate's number (`resultAdd_zext`, `resultMul_zext`). -/
theorem addAndMultiplyFollowFit : Obligations.AddAndMultiplyFollowFit := by
  intro cfg m a b c hxlen hc ha
  have hva := readReg_of_lt m ha
  refine ⟨fun hb => ?_, ?_, ?_⟩
  · have hvb := readReg_of_lt m hb
    exact ⟨followsFit_of_compute rfl hva hvb hc rfl, followsFit_of_compute rfl hva hvb hc rfl⟩
  · exact followsFit_of_compute rfl hva (operand_imm b) hc (resultAdd_zext hxlen _ b)
  · exact followsFit_of_compute rfl hva (operand_imm b) hc (resultMul_zext hxlen _ b)

end Sys2Proof.Proofs
end

section
/-! The bits of a zero-extended immediate, and the statement O2 about the bitwise family (30_encoding.md R69;
41_bitwise.md R94). -/

namespace Sys2Proof.Machine

/-- An immediate's bits from 32 on are 0 in every register wide enough to have them (30_encoding.md R69). -/
theorem getLsbD_zext {xlen j : Nat} (hj : j < xlen) (v : Field) :
    (zext xlen v).getLsbD j = (decide (j < 32) && v.getLsbD j) := by
  rw [zext, BitVec.getLsbD_setWidth, decide_eq_true hj, Bool.true_and]
  by_cases hlow : j < 32
  · rw [decide_eq_true hlow, Bool.true_and]
  · rw [BitVec.getLsbD_of_ge v j (Nat.le_of_not_lt hlow), Bool.and_false]

end Sys2Proof.Machine

namespace Sys2Proof.Proofs

open Sys2Proof.Machine

/-- Settles O2: each of the four is one `Block.compute` whose function never raises and acts bit by bit
(`BitVec.getLsbD_and`, `BitVec.getLsbD_or`); an immediate's bits are those of `getLsbD_zext`. `32 ≤ XLEN` is not used: a
narrower register would only lack an immediate's upper bits. -/
theorem bitwiseResultsBitByBit : Obligations.BitwiseResultsBitByBit := by
  intro cfg m a b c _ hc ha
  have hva := readReg_of_lt m ha
  refine ⟨fun hb => ⟨?banr, ?borr⟩, ?bani, ?bori⟩
  case banr => exact completesWith_of_compute rfl hva (readReg_of_lt m hb) hc rfl fun _ _ => BitVec.getLsbD_and
  case borr => exact completesWith_of_compute rfl hva (readReg_of_lt m hb) hc rfl fun _ _ => BitVec.getLsbD_or
  case bani =>
    refine completesWith_of_compute rfl hva (operand_imm b) hc rfl fun j hj => ?_
    rw [BitVec.getLsbD_and, getLsbD_zext hj, Bool.and_assoc]
  case bori =>
    refine completesWith_of_compute rfl hva (operand_imm b) hc rfl fun j hj => ?_
    rw [BitVec.getLsbD_or, getLsbD_zext hj]

end Sys2Proof.Proofs
end

section
/-! The assignment family as one `Block.compute` each, whose B operand is `.unused` whatever the slot holds, and the
statement O3 about it (42_assignment.md R99 to R101). -/

namespace Sys2Proof.Machine

theorem exec_setr (a b c : Field) (s : State) :
    exec (.setr a b c) s = s.perform fun m => m.compute (.reg a) .unused c (resultPassA s.cfg) := rfl

theorem exec_seti (a b c : Field) (s : State) :
    exec (.seti a b c) s = s.perform fun m => m.compute (.imm a) .unused c (resultPassA s.cfg) := rfl

end Sys2Proof.Machine

namespace Sys2Proof.Proofs

open Sys2Proof.Machine

/-- Settles O3: slot B does not occur in the work of either instruction (`exec_setr`, `exec_seti`), so no value of it
matters, and PASS_A answers the A operand. `32 ≤ XLEN` keeps the number `seti` loads (`toNat_zext`). -/
theorem setCopiesAndIgnoresB : Obligations.SetCopiesAndIgnoresB := by
  intro cfg m a b c hxlen
  refine ⟨fun hc => ⟨fun ha => ?setrCopies, ?setiLoads⟩, fun b' => ⟨?setrIgnoresB, ?setiIgnoresB⟩⟩
  case setrCopies =>
    exact completesWith_of_compute (exec_setr a b c _) (readReg_of_lt m ha) operand_unused hc rfl rfl
  case setiLoads =>
    exact completesWith_of_compute (exec_seti a b c _) (operand_imm a) operand_unused hc rfl (toNat_zext hxlen a)
  case setrIgnoresB => rw [exec_setr a b, exec_setr a b']
  case setiIgnoresB => rw [exec_seti a b, exec_seti a b']

end Sys2Proof.Proofs
end

section
/-! The number of a comparison's truth value, and the statement O4 about the greater-than family (00_scope.md R15;
43_compare_gt.md R102). -/

namespace Sys2Proof.Machine

/-- A register of any width above 0 holds both truth values (00_scope.md R15). -/
theorem toNat_boolWord {xlen : Nat} (h : 0 < xlen) (p : Prop) [Decidable p] :
    (boolWord xlen (decide p)).toNat = if p then 1 else 0 := by
  have hone : 1 < 2 ^ xlen := Nat.one_lt_two_pow h.ne'
  by_cases hp : p
  · simp [boolWord, hp, Nat.mod_eq_of_lt hone]
  · simp [boolWord, hp]

variable {cfg : Config} {m : Block cfg} {i : Instr} {a b : Operand} {c : Field} {va vb : Word cfg.xlen}
  {f : Word cfg.xlen → Word cfg.xlen → Attempt (Word cfg.xlen)}

/-- An instruction whose function answers the truth value of `p` completes and writes 1 where `p` holds, else 0. -/
theorem completesWith_of_boolWord {p : Prop} [Decidable p] (h : 0 < cfg.xlen)
    (hexec : exec i ⟨cfg, m⟩ = State.perform ⟨cfg, m⟩ fun m => m.compute a b c f)
    (hva : m.operand a = .ok va) (hvb : m.operand b = .ok vb) (hc : c.toNat < cfg.nreg)
    (hf : f va vb = .ok (boolWord cfg.xlen (decide p))) : completesWith m i c fun v => v.toNat = if p then 1 else 0 :=
  completesWith_of_compute hexec hva hvb hc hf (toNat_boolWord h p)

theorem resultGt_zext_left (h : 32 ≤ cfg.xlen) (a : Field) (vb : Word cfg.xlen) :
    resultGt cfg (zext cfg.xlen a) vb = .ok (boolWord cfg.xlen (decide (a.toNat > vb.toNat))) := by
  rw [resultGt, toNat_zext h]

theorem resultGt_zext_right (h : 32 ≤ cfg.xlen) (va : Word cfg.xlen) (b : Field) :
    resultGt cfg va (zext cfg.xlen b) = .ok (boolWord cfg.xlen (decide (va.toNat > b.toNat))) := by
  rw [resultGt, toNat_zext h]

end Sys2Proof.Machine

namespace Sys2Proof.Proofs

open Sys2Proof.Machine

/-- Settles O4: each of the three is one `Block.compute` whose function answers the truth value of the unsigned `>`
(`completesWith_of_boolWord`); `32 ≤ XLEN` keeps an immediate's number on either side (`resultGt_zext_left`,
`resultGt_zext_right`). -/
theorem greaterThanIsUnsignedAndStrict : Obligations.GreaterThanIsUnsignedAndStrict := by
  intro cfg m a b c hxlen hc
  have hpos : 0 < cfg.xlen := Nat.lt_of_lt_of_le (by decide) hxlen
  refine ⟨fun hb => ?gtir, fun ha => ?gtri, fun ha hb => ?gtrr⟩
  case gtir =>
    exact completesWith_of_boolWord hpos rfl (operand_imm a) (readReg_of_lt m hb) hc (resultGt_zext_left hxlen a _)
  case gtri =>
    exact completesWith_of_boolWord hpos rfl (readReg_of_lt m ha) (operand_imm b) hc (resultGt_zext_right hxlen _ b)
  case gtrr =>
    exact completesWith_of_boolWord hpos rfl (readReg_of_lt m ha) (readReg_of_lt m hb) hc rfl

end Sys2Proof.Proofs
end

section
/-! Equality with an immediate on either side, and the statement O5 about the equality family (44_compare_eq.md R106 to
R109). -/

namespace Sys2Proof.Machine

variable {cfg : Config}

theorem resultEq_zext_left (h : 32 ≤ cfg.xlen) (a : Field) (vb : Word cfg.xlen) :
    resultEq cfg (zext cfg.xlen a) vb = .ok (boolWord cfg.xlen (decide (a.toNat = vb.toNat))) := by
  rw [resultEq, toNat_zext h]

theorem resultEq_zext_right (h : 32 ≤ cfg.xlen) (va : Word cfg.xlen) (b : Field) :
    resultEq cfg va (zext cfg.xlen b) = .ok (boolWord cfg.xlen (decide (va.toNat = b.toNat))) := by
  rw [resultEq, toNat_zext h]

end Sys2Proof.Machine

namespace Sys2Proof.Proofs

open Sys2Proof.Machine

/-- Settles O5: EQ answers the truth value of equality on all `XLEN` bits, which `completesWith_of_boolWord` writes as a
number. An immediate takes part at full width, so no high bit of the register is left out (`resultEq_zext_left`,
`resultEq_zext_right`). -/
theorem equalComparesWholeRegisters : Obligations.EqualComparesWholeRegisters := by
  intro cfg m a b c hxlen hc
  have hpos : 0 < cfg.xlen := Nat.lt_of_lt_of_le (by decide) hxlen
  refine ⟨fun hb => ?eqir, fun ha => ?eqri, fun ha hb => ?eqrr⟩
  case eqir =>
    exact completesWith_of_boolWord hpos rfl (operand_imm a) (readReg_of_lt m hb) hc (resultEq_zext_left hxlen a _)
  case eqri =>
    exact completesWith_of_boolWord hpos rfl (readReg_of_lt m ha) (operand_imm b) hc (resultEq_zext_right hxlen _ b)
  case eqrr =>
    exact completesWith_of_boolWord hpos rfl (readReg_of_lt m ha) (readReg_of_lt m hb) hc rfl

end Sys2Proof.Proofs
end

section
/-! One equation per branch of a step and of the parts of its end, and the statements about the parts that need no more:
O18, O19 and O20 (45_execution_loop.md R110 to R113). -/

namespace Sys2Proof.Machine

variable {cfg : Config} {m m1 : Block cfg} {source : StopSource}

theorem mirrorIp_of_unbound (h : m.prog.ipr = none) : m.mirrorIp = .ok m := by
  simp only [Block.mirrorIp, h]

theorem mirrorIp_of_bound {p : Field} (h : m.prog.ipr = some p) : m.mirrorIp = m.writeReg p m.ip := by
  simp only [Block.mirrorIp, h]

/-- Step 1 leaves the block with some register file (45_execution_loop.md R111). -/
theorem exists_withRegs_of_mirrorIp (h : m.mirrorIp = .ok m1) : ∃ regs, m1 = m.withRegs regs :=
  ⟨m1.regs, mirrorIp_frame h⟩

theorem stepWith_of_mirror_raise {r : Raise} (hrun : m.status = .running) (h : m.mirrorIp = .error r) :
    stepWith source ⟨cfg, m⟩ = .next ⟨cfg, m.takeFault r⟩ := by
  simp only [stepWith, hrun, if_true, h]

theorem stepWith_of_past_program (hrun : m.status = .running) (h : m.mirrorIp = .ok m1)
    (hpast : m.prog.words.length ≤ m.ip.toNat) : stepWith source ⟨cfg, m⟩ = .next ⟨cfg, m1.halt⟩ := by
  have hfetch : m1.fetch = none := by
    obtain ⟨regs, rfl⟩ := exists_withRegs_of_mirrorIp h
    exact fetch_eq_none.mpr hpast
  simp only [stepWith, hrun, if_true, h, hfetch]

theorem mirrorIp_of_standsAt {i : Instr} (h : m.standsAt m1 i) : m.mirrorIp = .ok m1 := by
  obtain ⟨-, hm1, -⟩ := h
  exact hm1

/-- The block step 1 leaves still runs (45_execution_loop.md R111). -/
theorem running_of_standsAt {i : Instr} (h : m.standsAt m1 i) : m1.status = .running := by
  obtain ⟨hrun, hm1, -⟩ := h
  obtain ⟨_, rfl⟩ := exists_withRegs_of_mirrorIp hm1
  exact hrun

theorem stepWith_of_standsAt {i : Instr} (h : m.standsAt m1 i) :
    stepWith source ⟨cfg, m⟩ = afterInstruction source m1.snapshot (exec i ⟨cfg, m1⟩) := by
  obtain ⟨hrun, hm1, w, hfetch, hdecode⟩ := h
  simp only [stepWith, hrun, if_true, hm1, hfetch, runWord, hdecode, State.regsOut]

/-- Only a running block takes a step (10_state.md R31). -/
theorem step_ne_next_of_not_running {s : State} (h : s.block.status ≠ .running) (t : State) : step s ≠ .next t :=
  fun hstep => h (step_stepEnd hstep).1

/-- A step that ends HALTED leaves `ip` in the bound register: step 1 ran in that step too (45_execution_loop.md R111). -/
theorem StepEnd.readReg_of_halted {m' : Block cfg} (hend : StepEnd source m m') (hrun : m.status = .running)
    (hhalt : m'.status = .halted) {p : Field} (hp : m.prog.ipr = some p) : m'.readReg p = .ok m.ip := by
  cases hend with
  | halted regs hpast hmirror => exact hmirror p hp
  | advanced regs pre v => exact absurd (hrun.symm.trans hhalt) nofun
  | raised | stopped | raisedAfterEvent => cases hhalt

end Sys2Proof.Machine

namespace Sys2Proof.Proofs

open Sys2Proof.Machine

/-- Settles O18: the branch of `stepWith` in which step 1 succeeds and the fetched word decodes. -/
theorem stepRunsTheDecodedInstruction : Obligations.StepRunsTheDecodedInstruction := fun _ _ _ _ h =>
  stepWith_of_standsAt h

/-- Settles O19: with a binding step 1 is one register write, and a step that halts went through it
(`StepEnd.readReg_of_halted`). -/
theorem stepOneMirrorsIpOrFaults : Obligations.StepOneMirrorsIpOrFaults := by
  intro cfg m
  refine ⟨mirrorIp_of_unbound, fun p hp =>
    ⟨fun hlt => ?inRange, fun hge hrun => ?outOfRange, fun m' hstep hhalt => ?halted⟩⟩
  case inRange =>
    have hwrite := writeReg_of_lt m m.ip hlt
    exact ⟨(mirrorIp_of_bound hp).trans hwrite, readReg_of_writeReg_same hwrite⟩
  case outOfRange =>
    exact stepWith_of_mirror_raise hrun ((mirrorIp_of_bound hp).trans (writeReg_of_ge m m.ip hge))
  case halted =>
    obtain ⟨hrun, _, ht, hend⟩ := step_stepEnd hstep
    cases ht
    exact hend.readReg_of_halted hrun hhalt hp

/-- Settles O20: past the program the fetch answers no word, and HALTED enables no further step. -/
theorem naturalHaltPastTheProgram : Obligations.NaturalHaltPastTheProgram := by
  intro cfg m m1 hrun hm1 hpast
  have hstep : step ⟨cfg, m⟩ = .next ⟨cfg, m1.halt⟩ := stepWith_of_past_program hrun hm1 hpast
  have hmirror := mirrorsIp_of_mirrorIp hm1
  obtain ⟨regs, rfl⟩ := exists_withRegs_of_mirrorIp hm1
  exact ⟨hstep, hmirror, step_ne_next_of_not_running nofun⟩

end Sys2Proof.Proofs
end

section
/-! The end of a step whose instruction wrote one register: what step 4 reads back, the three ways the step can end, and
the statements O21 and O23 about them (45_execution_loop.md R114 to R118). -/

namespace Sys2Proof.Machine

variable {cfg : Config} {m m1 : Block cfg} {pre : List Nat}

theorem readBack_of_unbound (h : m.prog.ipr = none) : m.readBack = .ok m.ip := by
  simp only [Block.readBack, h]

theorem readBack_of_bound {p : Field} (h : m.prog.ipr = some p) : m.readBack = m.readReg p := by
  simp only [Block.readBack, h]

theorem branchBase_of_unbound (h : m.prog.ipr = none) (c : Field) (v : Word cfg.xlen) : branchBase m c v = m.ip := by
  simp only [branchBase, h]

theorem branchBase_of_bound {p : Field} (h : m.prog.ipr = some p) (c : Field) (v : Word cfg.xlen) :
    branchBase m c v = if p.toNat = c.toNat then v else m.ip := by
  simp only [branchBase, h]

/-- Step 1 leaves the program and its binding (45_execution_loop.md R111). -/
theorem prog_of_mirrorIp (h : m.mirrorIp = .ok m1) : m1.prog = m.prog := by
  obtain ⟨_, rfl⟩ := exists_withRegs_of_mirrorIp h
  rfl

/-- Step 1 leaves the answers waiting on STOP (45_execution_loop.md R111). -/
theorem stopInput_of_mirrorIp (h : m.mirrorIp = .ok m1) : m1.stopInput = m.stopInput := by
  obtain ⟨_, rfl⟩ := exists_withRegs_of_mirrorIp h
  rfl

theorem prog_of_writeReg {m2 : Block cfg} {c : Field} {v : Word cfg.xlen} (h : m1.writeReg c v = .ok m2) :
    m2.prog = m1.prog := by
  obtain ⟨-, rfl⟩ := writeReg_ok h
  rfl

theorem ip_of_writeReg {m2 : Block cfg} {c : Field} {v : Word cfg.xlen} (h : m1.writeReg c v = .ok m2) :
    m2.ip = m1.ip := by
  obtain ⟨-, rfl⟩ := writeReg_ok h
  rfl

/-- Step 4 after a write of `v` to register `c` finds `v` where `c` is the bound register, and else the `ip` that step 1
put there (45_execution_loop.md R114). -/
theorem readBack_of_writeReg {m2 : Block cfg} {c : Field} {v : Word cfg.xlen} (h : m.mirrorIp = .ok m1)
    (hwrite : m1.writeReg c v = .ok m2) : m2.readBack = .ok (branchBase m c v) := by
  have hmirror := mirrorsIp_of_mirrorIp h
  have hprog : m2.prog = m.prog := (prog_of_writeReg hwrite).trans (prog_of_mirrorIp h)
  have hip : m1.ip = m.ip := by
    obtain ⟨_, rfl⟩ := exists_withRegs_of_mirrorIp h
    rfl
  cases hipr : m.prog.ipr with
  | none =>
    rw [branchBase_of_unbound hipr, readBack_of_unbound (hprog ▸ hipr), ip_of_writeReg hwrite, hip]
  | some p =>
    rw [branchBase_of_bound hipr, readBack_of_bound (hprog ▸ hipr)]
    by_cases hpc : p = c
    · rw [hpc, if_pos rfl, readReg_of_writeReg_same hwrite]
    · rw [if_neg fun hnat => hpc (BitVec.eq_of_toNat_eq hnat), readReg_of_writeReg_ne hwrite hpc, ← hip]
      exact hmirror p (prog_of_mirrorIp h ▸ hipr)

@[simp] theorem readBack_sampled : (m.sampled pre).readBack = m.readBack := rfl

theorem readBack_sampled_after_write {c : Field} {v : Word cfg.xlen} (hc : c.toNat < cfg.nreg)
    (h : m.mirrorIp = .ok m1) :
    ((m1.withRegs (m1.regs.set c.toNat v hc)).sampled pre).readBack = .ok (branchBase m c v) := by
  have hwrite : m1.writeReg c v = .ok (m1.withRegs (m1.regs.set c.toNat v hc)) := writeReg_of_lt m1 v hc
  rw [readBack_sampled, readBack_of_writeReg h hwrite]

theorem nextIp_of_ne_max {v : Word cfg.xlen} (h : v ≠ maxWord cfg.xlen) : nextIp v = .ok (v + 1) := if_neg h

theorem advance_of_ne_max {v : Word cfg.xlen} (hback : m.readBack = .ok v) (hv : v ≠ maxWord cfg.xlen) :
    m.advance = { m with ip := v + 1 } := by
  simp only [Block.advance, hback, bind, Except.bind, nextIp_of_ne_max hv]

theorem advance_of_max (hback : m.readBack = .ok (maxWord cfg.xlen)) :
    m.advance = m.takeFault (.ipOverflow (maxWord cfg.xlen).toNat) := by
  simp only [Block.advance, hback, bind, Except.bind, nextIp, if_true]

theorem complete_of_stop {source : StopSource} (h : source m.stopInput (m.sampled pre).events = .stop) :
    m.complete source pre = { m.sampled pre with status := .stopped } := by
  rcases complete_cases m source pre with ⟨-, hend⟩ | ⟨hgo, -⟩
  · exact hend
  · exact absurd (h.symm.trans hgo) nofun

theorem complete_of_proceed {source : StopSource} (h : source m.stopInput (m.sampled pre).events = .proceed) :
    m.complete source pre = (m.sampled pre).advance := by
  rcases complete_cases m source pre with ⟨hstop, -⟩ | ⟨-, hend⟩
  · exact absurd (h.symm.trans hstop) nofun
  · exact hend

theorem queuedStop_eq_stop {answers : List StopAnswer} (h : answers.head? = some .stop) (events : List Event) :
    queuedStop answers events = .stop := by
  rw [queuedStop, List.headD_eq_head?_getD, h, Option.getD_some]

theorem queuedStop_eq_proceed {answers : List StopAnswer} (h : answers.head? ≠ some .stop) (events : List Event) :
    queuedStop answers events = .proceed := by
  match answers, h with
  | [], _ => rfl
  | .proceed :: _, _ => rfl
  | .stop :: _, h => exact absurd rfl h

/-- An instruction that leaves the registers `regs` completes the step from the block it leaves. -/
theorem stepWith_of_completes {i : Instr} {regs : Vector (Word cfg.xlen) cfg.nreg} (source : StopSource)
    (hstand : m.standsAt m1 i) (hexec : exec i ⟨cfg, m1⟩ = .next ⟨cfg, m1.withRegs regs⟩) :
    stepWith source ⟨cfg, m⟩ = .next ⟨cfg, (m1.withRegs regs).complete source m1.snapshot⟩ := by
  have hrun : (m1.withRegs regs).status = .running := (running_of_standsAt hstand :)
  rw [stepWith_of_standsAt hstand, hexec, afterInstruction_of_running source _ hrun]

/-- The same step where the queue answers stop. -/
theorem step_of_completes_of_stop {i : Instr} {regs : Vector (Word cfg.xlen) cfg.nreg}
    (hstand : m.standsAt m1 i) (hexec : exec i ⟨cfg, m1⟩ = .next ⟨cfg, m1.withRegs regs⟩)
    (hstop : m.stopInput.head? = some .stop) :
    step ⟨cfg, m⟩ = .next ⟨cfg, { (m1.withRegs regs).sampled m1.snapshot with status := .stopped }⟩ := by
  have hask : (m1.withRegs regs).stopInput.head? = some .stop := by
    rwa [← stopInput_of_mirrorIp (mirrorIp_of_standsAt hstand)] at hstop
  rw [step, stepWith_of_completes queuedStop hstand hexec, complete_of_stop (queuedStop_eq_stop hask _)]

/-- The same step where the queue does not answer stop: it goes on to steps 4 and 5. -/
theorem step_of_completes_of_go {i : Instr} {regs : Vector (Word cfg.xlen) cfg.nreg}
    (hstand : m.standsAt m1 i) (hexec : exec i ⟨cfg, m1⟩ = .next ⟨cfg, m1.withRegs regs⟩)
    (hgo : m.stopInput.head? ≠ some .stop) :
    step ⟨cfg, m⟩ = .next ⟨cfg, ((m1.withRegs regs).sampled m1.snapshot).advance⟩ := by
  have hask : (m1.withRegs regs).stopInput.head? ≠ some .stop := by
    rwa [← stopInput_of_mirrorIp (mirrorIp_of_standsAt hstand)] at hgo
  rw [step, stepWith_of_completes queuedStop hstand hexec, complete_of_proceed (queuedStop_eq_proceed hask _)]

end Sys2Proof.Machine

namespace Sys2Proof.Proofs

open Sys2Proof.Machine

/-- Settles O21: STOP lets the step go on to steps 4 and 5, and step 4 finds `branchBase` (`readBack_of_writeReg`). -/
theorem completedStepReadsBackAndIncrements : Obligations.CompletedStepReadsBackAndIncrements := by
  intro cfg m m1 i c v hc hstand hexec hgo hne
  have hm1 := mirrorIp_of_standsAt hstand
  rw [step_of_completes_of_go hstand hexec hgo, advance_of_ne_max (readBack_sampled_after_write hc hm1) hne]
  obtain ⟨regs, rfl⟩ := exists_withRegs_of_mirrorIp hm1
  rfl

/-- Settles O23: a stop answer ends the step before steps 4 and 5, and STOPPED enables no further step. -/
theorem stopEndsTheRunAtTheInstruction : Obligations.StopEndsTheRunAtTheInstruction := by
  intro cfg m m1 i c v hc hstand hexec hstop
  have hstep := step_of_completes_of_stop hstand hexec hstop
  have hm1 := mirrorIp_of_standsAt hstand
  obtain ⟨regs, rfl⟩ := exists_withRegs_of_mirrorIp hm1
  exact ⟨_, rfl, hstep, step_ne_next_of_not_running nofun⟩

end Sys2Proof.Proofs
end

section
/-! Which causes an instruction can raise, every way a step without a binding ends inside the program, and the statement
O22 about IpOverflow (45_execution_loop.md R116; 60_exceptions.md R132, R136). -/

namespace Sys2Proof.Machine

variable {cfg : Config} {m : Block cfg}

theorem readReg_error {i : Field} {r : Raise} (h : m.readReg i = .error r) : r = .registerIndexOutOfRange i := by
  by_cases hi : i.toNat < cfg.nreg
  · rw [readReg_of_lt m hi] at h
    cases h
  · rw [readReg_of_ge m (Nat.le_of_not_lt hi)] at h
    exact (Except.error.inj h).symm

theorem checkReg_error {i : Field} {r : Raise} (h : m.checkReg i = .error r) : r = .registerIndexOutOfRange i := by
  by_cases hi : i.toNat < cfg.nreg
  · rw [checkReg_of_lt m hi] at h
    cases h
  · rw [checkReg_of_ge m (Nat.le_of_not_lt hi)] at h
    exact (Except.error.inj h).symm

theorem operand_error {o : Operand} {r : Raise} (h : m.operand o = .error r) :
    ∃ i, r = .registerIndexOutOfRange i := by
  cases o with
  | reg i => exact ⟨i, readReg_error h⟩
  | imm | unused => cases h

/-- Everything an instruction's work can raise: an index out of range, or what its function raises (30_encoding.md R73,
R74). -/
theorem compute_error {a b : Operand} {c : Field} {f : Word cfg.xlen → Word cfg.xlen → Attempt (Word cfg.xlen)}
    {r : Raise} (h : m.compute a b c f = .error r) :
    (∃ i, r = .registerIndexOutOfRange i) ∨ ∃ va vb, f va vb = .error r := by
  cases hva : m.operand a with
  | error ra =>
    obtain rfl : ra = r := by simpa [Block.compute, hva, bind, Except.bind] using h
    exact .inl (operand_error hva)
  | ok va =>
    cases hvb : m.operand b with
    | error rb =>
      obtain rfl : rb = r := by simpa [Block.compute, hva, hvb, bind, Except.bind] using h
      exact .inl (operand_error hvb)
    | ok vb =>
      by_cases hc : c.toNat < cfg.nreg
      · cases hv : f va vb with
        | error rf =>
          obtain rfl : rf = r := Except.error.inj ((compute_of_raise hva hvb hc hv).symm.trans h)
          exact .inr ⟨va, vb, hv⟩
        | ok v => exact absurd ((compute_of_ok hva hvb hc hv).symm.trans h) nofun
      · have hge := checkReg_of_ge m (Nat.le_of_not_lt hc)
        refine .inl ⟨c, ?_⟩
        simpa [Block.compute, hva, hvb, hge, bind, Except.bind] using h.symm

theorem fit_error {s : Nat} {r : Raise} (h : fit cfg s = .error r) : r = .arithmeticOverflow s := by
  rcases Nat.lt_or_ge s (2 ^ cfg.xlen) with hlt | hge
  · exact absurd ((fit_of_lt hlt).symm.trans h) nofun
  · cases hmode : cfg.overflow with
    | fault => exact (Except.error.inj ((fit_of_overflow hge hmode).symm.trans h)).symm
    | wrap => exact absurd ((fit_of_wrap hge hmode).symm.trans h) nofun

/-- Of the seven functions only ADD and MUL raise, and then an overflow (30_encoding.md R74). -/
theorem result_error {fn : Fn} {va vb : Word cfg.xlen} {r : Raise} (h : fn.result cfg va vb = .error r) :
    ∃ s, r = .arithmeticOverflow s := by
  cases fn with
  | add | mul => exact ⟨_, fit_error h⟩
  | and | or | passA | gt | eq => cases h

/-- Everything an instruction can do to a block: leave other registers, or raise, and never IpOverflow, which is the
loop's own (60_exceptions.md R132). -/
theorem exec_cases (i : Instr) (m : Block cfg) :
    (∃ regs, exec i ⟨cfg, m⟩ = .next ⟨cfg, m.withRegs regs⟩) ∨
    ∃ r : Raise, r.cause ≠ .ipOverflow ∧ exec i ⟨cfg, m⟩ = .next ⟨cfg, m.takeFault r⟩ := by
  obtain ⟨ctl, -, hexec⟩ := exec_eq_perform_control i
  rw [hexec]
  rcases perform_cases ⟨cfg, m⟩ (ctl.compute i.slotA i.slotB i.slotC) with ⟨m', hwork, hperf⟩ | ⟨r, hwork, hperf⟩
  · obtain ⟨hc, v, rfl⟩ := compute_ok hwork
    exact .inl ⟨_, hperf⟩
  · refine .inr ⟨r, ?_, hperf⟩
    rcases compute_error hwork with ⟨j, rfl⟩ | ⟨va, vb, hf⟩
    · nofun
    · obtain ⟨s, rfl⟩ := result_error hf
      nofun

theorem ne_maxWord_of_lt {n : Nat} {v : Word n} (h : v.toNat < 2 ^ n - 1) : v ≠ maxWord n := by
  rintro rfl
  exact absurd (BitVec.toNat_allOnes.symm.trans_lt h) (Nat.lt_irrefl _)

theorem toNat_add_one_of_ne_maxWord {n : Nat} {v : Word n} (h : v ≠ maxWord n) : (v + 1).toNat = v.toNat + 1 := by
  have hne : v.toNat ≠ 2 ^ n - 1 := fun he => h (BitVec.eq_of_toNat_eq (he.trans BitVec.toNat_allOnes.symm))
  have hlt : v.toNat + 1 < 2 ^ n := by have := v.isLt; omega
  simp [Nat.mod_eq_of_lt hlt]

/-- Fault entry of step 5 records the whole `ip` it started from (60_exceptions.md R132). -/
theorem takeFault_ipOverflow (m : Block cfg) (v : Word cfg.xlen) :
    m.takeFault (.ipOverflow v.toNat) = faultedBlock m .ipOverflow 4 v := by
  have hinfo : (Raise.ipOverflow v.toNat).info cfg.xlen = v := by
    rw [Raise.info, BitVec.ofNat_toNat, BitVec.setWidth_eq]
  simp only [Block.takeFault, hinfo]
  rfl

/-- Every way a step of a running block without a binding can end at an instruction of a program with
`N <= 2^XLEN - 1`: a raise of step 2, a stop, or the next index (45_execution_loop.md R124). -/
theorem stepWith_unbound (source : StopSource) (hrun : m.status = .running) (hfree : m.prog.ipr = none)
    (hin : m.addressesInstruction) (hlen : m.prog.words.length ≤ 2 ^ cfg.xlen - 1) :
    (∃ r : Raise, r.cause ≠ .ipOverflow ∧ stepWith source ⟨cfg, m⟩ = .next ⟨cfg, m.takeFault r⟩) ∨
    ∃ regs,
      (source m.stopInput ((m.withRegs regs).sampled m.snapshot).events = .stop ∧
        stepWith source ⟨cfg, m⟩ = .next ⟨cfg, { (m.withRegs regs).sampled m.snapshot with status := .stopped }⟩) ∨
      stepWith source ⟨cfg, m⟩ = .next ⟨cfg, { (m.withRegs regs).sampled m.snapshot with ip := m.ip + 1 }⟩ := by
  have hm1 := mirrorIp_of_unbound hfree
  have hnext : m.ip ≠ maxWord cfg.xlen := ne_maxWord_of_lt (Nat.lt_of_lt_of_le hin hlen)
  rcases stepWith_cases source hrun with ⟨r, hraise, -⟩ | ⟨m1, hok, hrest⟩
  · exact absurd (hm1.symm.trans hraise) nofun
  obtain rfl : m = m1 := Except.ok.inj (hm1.symm.trans hok)
  rcases hrest with ⟨hpast, -⟩ | ⟨w, e, -, -, hstep⟩ | ⟨w, i, hfetch, hdecode, hstep⟩
  · exact absurd (fetch_eq_none.mp hpast) (Nat.not_le.mpr hin)
  · exact .inl ⟨.illegalInstruction (opField w), nofun, hstep⟩
  rcases exec_cases i m with ⟨regs, hexec⟩ | ⟨r, hcause, hexec⟩
  · refine .inr ⟨regs, ?_⟩
    have hstep := stepWith_of_completes source ⟨hrun, hm1, w, hfetch, hdecode⟩ hexec
    have hback : ((m.withRegs regs).sampled m.snapshot).readBack = .ok m.ip := readBack_of_unbound hfree
    rcases complete_cases (m.withRegs regs) source m.snapshot with ⟨hask, hend⟩ | ⟨-, hend⟩
    · exact .inl ⟨hask, hend ▸ hstep⟩
    · exact .inr (advance_of_ne_max hback hnext ▸ hend ▸ hstep)
  · refine .inl ⟨r, hcause, ?_⟩
    rw [hstep, hexec]
    exact afterInstruction_of_not_running source _ nofun

end Sys2Proof.Machine

namespace Sys2Proof.Proofs

open Sys2Proof.Machine

/-- Settles O22. Step 5 raises where step 4 found the largest value. Without a binding step 4 finds the executed index,
which is below `N`, so the step ends in one of the ways of `stepWith_unbound`, and past the program in the natural halt. -/
theorem ipOverflowFromTheLargestIpOnly : Obligations.IpOverflowFromTheLargestIpOnly := by
  refine ⟨?raises, ?unbound⟩
  case raises =>
    intro cfg m m1 i c v hc hstand hexec hgo hmax
    have hm1 := mirrorIp_of_standsAt hstand
    have hback := readBack_sampled_after_write (pre := m1.snapshot) (v := v) hc hm1
    rw [step_of_completes_of_go hstand hexec hgo, advance_of_max (hmax ▸ hback), takeFault_ipOverflow]
    obtain ⟨regs, rfl⟩ := exists_withRegs_of_mirrorIp hm1
    rw [← BitVec.toNat_allOnes]
    rfl
  case unbound =>
    intro cfg m m' hrun hfree hlen hstep hfault
    rcases Nat.lt_or_ge m.ip.toNat m.prog.words.length with hin | hpast
    · rcases stepWith_unbound queuedStop hrun hfree hin hlen with
        ⟨r, hcause, hr⟩ | ⟨regs, ⟨-, hstop⟩ | hnext⟩
      · cases hstep.symm.trans hr
        exact hcause
      · cases hstep.symm.trans hstop
        cases hfault
      · cases hstep.symm.trans hnext
        exact absurd (hrun.symm.trans hfault) nofun
    · cases hstep.symm.trans (stepWith_of_past_program hrun (mirrorIp_of_unbound hfree) hpast)
      cases hfault

end Sys2Proof.Proofs
end

section
/-! Where a completed step goes: one past what step 4 found, so never to 0, and through the bound register to one past the
value written there. The statements O28, O34 and O35 (45_execution_loop.md R119 to R123). -/

namespace Sys2Proof.Machine

variable {cfg : Config} {m m1 : Block cfg} {source : StopSource}

/-- A step that leaves the block running moved `ip` to a successor (45_execution_loop.md R115, R123). -/
theorem StepEnd.one_le_ip {m' : Block cfg} (hend : StepEnd source m m') (hrun : m'.status = .running) :
    1 ≤ m'.ip.toNat := by
  cases hend with
  | advanced regs pre v hin hask hback hv =>
    exact (Nat.le_add_left 1 _).trans_eq (toNat_add_one_of_ne_maxWord hv).symm
  | raised | halted | stopped | raisedAfterEvent => cases hrun

/-- After step 1 the bound register reads as the executed index (45_execution_loop.md R111, R119). -/
theorem readReg_bound_of_mirrorIp {p : Field} (h : m.mirrorIp = .ok m1) (hp : m.prog.ipr = some p) :
    m1.readReg p = .ok m.ip := by
  have hmirror := mirrorsIp_of_mirrorIp h
  obtain ⟨_, rfl⟩ := exists_withRegs_of_mirrorIp h
  exact hmirror p hp

/-- Step 1 leaves every register but the bound one (45_execution_loop.md R111). -/
theorem readReg_other_of_mirrorIp {p q : Field} (h : m.mirrorIp = .ok m1) (hp : m.prog.ipr = some p) (hne : q ≠ p) :
    m1.readReg q = m.readReg q :=
  readReg_of_writeReg_ne ((mirrorIp_of_bound hp).symm.trans h) hne

/-- An instruction that writes the number `n` to the bound register is a jump to `n + 1` (45_execution_loop.md R120). -/
theorem stepGoesTo_of_completesWith {p : Field} {i : Instr} {n : Nat} (hp : m.prog.ipr = some p)
    (hqueue : m.stopInput = []) (hstand : m.standsAt m1 i) (hfits : n + 1 < 2 ^ cfg.xlen)
    (hcompletes : completesWith m1 i p fun v => v.toNat = n) : stepGoesTo m (n + 1) := by
  obtain ⟨hlt, v, rfl, hexec⟩ := hcompletes
  have hbase : branchBase m p v = v := (branchBase_of_bound hp p v).trans (if_pos rfl)
  have hv : v ≠ maxWord cfg.xlen := ne_maxWord_of_lt (Nat.lt_sub_of_add_lt hfits)
  refine ⟨_, Proofs.completedStepReadsBackAndIncrements cfg m m1 i p v hlt hstand hexec ?_ (hbase.trans_ne hv),
    (running_of_standsAt hstand :), ?_⟩
  · rw [hqueue]
    nofun
  · rw [hbase]
    exact toNat_add_one_of_ne_maxWord hv

end Sys2Proof.Machine

namespace Sys2Proof.Proofs

open Sys2Proof.Machine

/-- Settles O28: of the endings of a step only the one that increments `ip` runs on. -/
theorem noJumpReachesAddressZero : Obligations.NoJumpReachesAddressZero := by
  intro s t hstep hrun
  obtain ⟨-, m', rfl, hend⟩ := step_stepEnd hstep
  exact hend.one_le_ip hrun

/-- Settles O34: each of the four writes its number to the bound register (`stepGoesTo_of_completesWith`), reading the
executed index there and `x[q]` elsewhere. `32 ≤ XLEN` keeps the numbers of the immediates `t` and `d`. -/
theorem jumpsThroughTheBoundRegister : Obligations.JumpsThroughTheBoundRegister := by
  intro cfg m m1 p i hxlen hlt hp hqueue hstand
  have hm1 := mirrorIp_of_standsAt hstand
  have hk : m1.readReg p = .ok m.ip := readReg_bound_of_mirrorIp hm1 hp
  refine ⟨fun t b hi hfits => ?seti, fun d hi hfits => ?addi, fun q b hq hne hi hfits => ?setr, fun hi hfits => ?mulr⟩ <;>
    subst hi <;> refine stepGoesTo_of_completesWith hp hqueue hstand hfits ?_
  case seti =>
    exact completesWith_of_compute (exec_seti t b p _) (operand_imm t) operand_unused hlt rfl (toNat_zext hxlen t)
  case addi =>
    have hfollows : followsFit m1 (.addi p d p) p (m.ip.toNat + d.toNat) :=
      followsFit_of_compute rfl hk (operand_imm d) hlt (resultAdd_zext hxlen _ d)
    exact hfollows.1 (Nat.lt_of_succ_lt hfits)
  case setr =>
    have hxq := (readReg_other_of_mirrorIp hm1 hp hne).trans (readReg_of_lt m hq)
    exact completesWith_of_compute (exec_setr q b p _) hxq operand_unused hlt rfl rfl
  case mulr =>
    have hfollows : followsFit m1 (.mulr p p p) p (m.ip.toNat * m.ip.toNat) := followsFit_of_compute rfl hk hk hlt rfl
    exact hfollows.1 (Nat.lt_of_succ_lt hfits)

/-- Settles O35: `addr q p p` reads the executed index in slot B and writes its sum with `x[q]` to the bound register. -/
theorem conditionalBranchSkipsByTheFlag : Obligations.ConditionalBranchSkipsByTheFlag := by
  intro cfg m m1 p q hq hlt hne hp hqueue hstand hfits
  have hm1 := mirrorIp_of_standsAt hstand
  have hk : m1.readReg p = .ok m.ip := readReg_bound_of_mirrorIp hm1 hp
  have hxq := (readReg_other_of_mirrorIp hm1 hp hne).trans (readReg_of_lt m hq)
  rw [Nat.add_comm m.ip.toNat] at hfits ⊢
  have hfollows : followsFit m1 (.addr q p p) p (m.regs[q.toNat].toNat + m.ip.toNat) :=
    followsFit_of_compute rfl hxq hk hlt rfl
  exact stepGoesTo_of_completesWith hp hqueue hstand hfits (hfollows.1 (Nat.lt_of_succ_lt hfits))

end Sys2Proof.Proofs
end

section
/-! Runs to completion: the statement O38, that none ends STOPPED or stuck, and the statement O36, that without a binding
one is a straight line. Both are inductions over the steps (45_execution_loop.md R124, R127). -/

namespace Sys2Proof.Machine

variable {cfg : Config} {m : Block cfg}

/-- The no-op debugger "never requests a stop" (45_execution_loop.md R127). -/
theorem oracleStop_neverStop (answers : List StopAnswer) (events : List Event) :
    oracleStop neverStop answers events = .proceed := rfl

theorem StepEnd.not_stopped {m' : Block cfg} (hend : StepEnd (oracleStop neverStop) m m') (hrun : m.status = .running) :
    m'.status ≠ .stopped := by
  cases hend with
  | stopped regs pre hin hask => cases (oracleStop_neverStop _ _).symm.trans hask
  | advanced => exact hrun.trans_ne nofun
  | raised | halted | raisedAfterEvent => nofun

theorem runWith_zero_of_running {s : State} (source : StopSource) (h : s.block.status = .running) :
    runWith source 0 s = .outOfFuel s := if_pos h

@[simp] theorem stepEvents_cons_step (e : StepEvent) (events : List Event) :
    stepEvents (.step e :: events) = stepEvents events ++ [e] := by
  simp [stepEvents, Event.stepEvent?]

@[simp] theorem stepEvents_cons_halt (ip : Nat) (events : List Event) :
    stepEvents (.halt ip :: events) = stepEvents events := rfl

@[simp] theorem stepEvents_cons_fault (code : BitVec 4) (ip info : Nat) (events : List Event) :
    stepEvents (.fault code ip info :: events) = stepEvents events := rfl

/-- A running block of an unbound program that has executed 0, ..., `j - 1` once each, in order, and stands at `j`. -/
structure Block.OnStraightLine (m : Block cfg) (j : Nat) : Prop where
  running : m.status = .running
  unbound : m.prog.ipr = none
  ip_eq : m.ip.toNat = j
  executed : (stepEvents m.events).map StepEvent.ip = List.range j

/-- The two ends of a straight line through `n` instructions: the natural halt past the last of them, or a fault in the
step at one of them (45_execution_loop.md R124). -/
def State.EndsStraightLine (t : State) (n : Nat) : Prop :=
  (t.block.status = .halted ∧ t.block.ip.toNat = n ∧ t.block.events.head? = some (.halt n) ∧
    (stepEvents t.block.events).map StepEvent.ip = List.range n) ∨
  ∃ j < n, t.block.status = .faulted ∧ t.block.faultIp.toNat = j ∧
    (stepEvents t.block.events).map StepEvent.ip = List.range j

/-- A step inside the program goes one further on the line, or faults there. -/
theorem Block.OnStraightLine.next_or_fault {j : Nat} (h : m.OnStraightLine j) (hin : j < m.prog.words.length)
    (hlen : m.prog.words.length ≤ 2 ^ cfg.xlen - 1) :
    ∃ m' : Block cfg, stepWith (oracleStop neverStop) ⟨cfg, m⟩ = .next ⟨cfg, m'⟩ ∧
      ((m'.OnStraightLine (j + 1) ∧ m'.prog = m.prog) ∨
       (m'.status = .faulted ∧ State.EndsStraightLine ⟨cfg, m'⟩ m.prog.words.length)) := by
  obtain ⟨hrun, hfree, rfl, hexecuted⟩ := h
  rcases stepWith_unbound (oracleStop neverStop) hrun hfree hin hlen with ⟨r, -, hfault⟩ | ⟨regs, ⟨hask, -⟩ | hnext⟩
  · refine ⟨_, hfault, .inr ⟨rfl, .inr ⟨_, hin, rfl, rfl, ?_⟩⟩⟩
    simpa using hexecuted
  · cases (oracleStop_neverStop _ _).symm.trans hask
  · refine ⟨_, hnext, .inl ⟨⟨hrun, hfree, ?_, ?_⟩, rfl⟩⟩
    · exact toNat_add_one_of_ne_maxWord (ne_maxWord_of_lt (Nat.lt_of_lt_of_le hin hlen))
    · calc (stepEvents (.step ⟨m.ip.toNat, m.snapshot, (m.withRegs regs).snapshot⟩ :: m.events)).map StepEvent.ip
          = (stepEvents m.events).map StepEvent.ip ++ [m.ip.toNat] := by rw [stepEvents_cons_step, List.map_append]; rfl
        _ = List.range (m.ip.toNat + 1) := by rw [hexecuted, List.range_succ]

/-- A run to completion from `j`, with fuel for the `n` instructions left and the halt (45_execution_loop.md R124). -/
theorem Block.OnStraightLine.run {n j : Nat} (h : m.OnStraightLine j) (hleft : m.prog.words.length = j + n)
    (hlen : m.prog.words.length ≤ 2 ^ cfg.xlen - 1) :
    ∃ t : State, runToCompletion (n + 1) ⟨cfg, m⟩ = .ended t ∧ t.EndsStraightLine m.prog.words.length := by
  induction n generalizing m j with
  | zero =>
    obtain ⟨hrun, hfree, rfl, hexecuted⟩ := h
    have hstep : stepWith (oracleStop neverStop) ⟨cfg, m⟩ = .next ⟨cfg, m.halt⟩ :=
      stepWith_of_past_program hrun (mirrorIp_of_unbound hfree) hleft.le
    refine ⟨⟨cfg, m.halt⟩, runWith_succ_of_running _ hrun hstep, .inl ?_⟩
    rw [hleft]
    exact ⟨rfl, rfl, rfl, by simpa using hexecuted⟩
  | succ n ih =>
    obtain ⟨m', hstep, ⟨hline, hprog⟩ | ⟨hfault, hend⟩⟩ := h.next_or_fault (by omega) hlen
    · have hrest := ih hline (by rw [hprog]; omega) (hprog ▸ hlen)
      rw [hprog] at hrest
      rwa [runToCompletion, debugRun, runWith_succ_of_running _ h.running hstep]
    · refine ⟨⟨cfg, m'⟩, ?_, hend⟩
      rw [runToCompletion, debugRun, runWith_succ_of_running _ h.running hstep]
      exact runWith_of_not_running _ _ (hfault.trans_ne nofun)

end Sys2Proof.Machine

namespace Sys2Proof.Proofs

open Sys2Proof.Machine

/-- Settles O38, by induction on the fuel: a step under the no-op debugger answers a next state that is not STOPPED. -/
theorem runToCompletionNeverStops : Obligations.RunToCompletionNeverStops := by
  intro fuel
  induction fuel with
  | zero => exact fun s hrun => .inl ⟨s, runWith_zero_of_running (oracleStop neverStop) hrun, hrun⟩
  | succ fuel ih =>
    intro s hrun
    obtain ⟨m', hstep, hend⟩ := stepWith_stepEnd (oracleStop neverStop) hrun
    have hrest : runToCompletion (fuel + 1) s = runToCompletion fuel ⟨s.cfg, m'⟩ :=
      runWith_succ_of_running _ hrun hstep
    rw [hrest]
    have hended (h : m'.status ≠ .running) : runToCompletion fuel ⟨s.cfg, m'⟩ = .ended ⟨s.cfg, m'⟩ :=
      runWith_of_not_running _ fuel h
    cases hstatus : m'.status with
    | running => exact ih ⟨s.cfg, m'⟩ hstatus
    | halted => exact .inr ⟨_, hended (hstatus.trans_ne nofun), .inl hstatus⟩
    | faulted => exact .inr ⟨_, hended (hstatus.trans_ne nofun), .inr hstatus⟩
    | stopped => exact absurd hstatus (hend.not_stopped hrun)

/-- Settles O36: a launched block stands on the straight line at 0, with all `N` instructions left
(`Block.OnStraightLine.run`). -/
theorem unboundRunIsAStraightLine : Obligations.UnboundRunIsAStraightLine := by
  intro cfg prog regs answers hfree hlen
  have hline : (State.launch cfg prog regs answers).block.OnStraightLine 0 := ⟨rfl, hfree, rfl, rfl⟩
  exact hline.run (Nat.zero_add _).symm hlen

end Sys2Proof.Proofs
end

section
/-! Register operands that do not exist: the checks of one instruction meet its registers in the order A, B, C, and the
statement O6 about the index recorded (60_exceptions.md R133, R137). -/

namespace Sys2Proof.Machine

variable {cfg : Config} {m : Block cfg} {a b : Operand} {c : Field} {r : Raise}
  {f : Word cfg.xlen → Word cfg.xlen → Attempt (Word cfg.xlen)}

theorem compute_of_operandA_raise (ha : m.operand a = .error r) : m.compute a b c f = .error r := by
  simp [Block.compute, ha, bind, Except.bind]

theorem compute_of_operandB_raise {va : Word cfg.xlen} (hva : m.operand a = .ok va) (hb : m.operand b = .error r) :
    m.compute a b c f = .error r := by
  simp [Block.compute, hva, hb, bind, Except.bind]

theorem compute_of_destination_ge {va vb : Word cfg.xlen} (hva : m.operand a = .ok va) (hvb : m.operand b = .ok vb)
    (hc : cfg.nreg ≤ c.toNat) : m.compute a b c f = .error (.registerIndexOutOfRange c) := by
  simp [Block.compute, hva, hvb, checkReg_of_ge m hc, bind, Except.bind]

/-- The registers an operand names: an immediate and an unused slot name none (30_encoding.md R69 to R71). -/
def Operand.registers : Operand → List Field
  | .reg i => [i]
  | .imm _ => []
  | .unused => []

/-- The first index of a list that names no register. -/
def firstMissing (cfg : Config) (indices : List Field) : Option Field :=
  indices.find? fun i => decide (cfg.nreg ≤ i.toNat)

theorem firstMissing_append (xs ys : List Field) :
    firstMissing cfg (xs ++ ys) = (firstMissing cfg xs).or (firstMissing cfg ys) := List.find?_append

theorem firstMissing_singleton_eq_some {i j : Field} : firstMissing cfg [i] = some j ↔ cfg.nreg ≤ i.toNat ∧ i = j := by
  by_cases h : cfg.nreg ≤ i.toNat <;> simp [firstMissing, h]

theorem firstMissing_singleton_eq_none {i : Field} : firstMissing cfg [i] = none ↔ i.toNat < cfg.nreg := by
  simp [firstMissing]

theorem operand_of_missing {o : Operand} {i : Field} (h : firstMissing cfg o.registers = some i) :
    m.operand o = .error (.registerIndexOutOfRange i) := by
  cases o with
  | reg j =>
    obtain ⟨hge, rfl⟩ := firstMissing_singleton_eq_some.mp h
    exact readReg_of_ge m hge
  | imm | unused => cases h

theorem exists_operand_of_none_missing (m : Block cfg) {o : Operand} (h : firstMissing cfg o.registers = none) :
    ∃ v, m.operand o = .ok v := by
  cases o with
  | reg j => exact ⟨_, readReg_of_lt m (firstMissing_singleton_eq_none.mp h)⟩
  | imm | unused => exact ⟨_, rfl⟩

/-- An instruction's work raises for the first index missing, before its function runs (60_exceptions.md R137). -/
theorem compute_of_missing {i : Field} (h : firstMissing cfg (a.registers ++ b.registers ++ [c]) = some i) :
    m.compute a b c f = .error (.registerIndexOutOfRange i) := by
  rw [firstMissing_append, firstMissing_append] at h
  cases ha : firstMissing cfg a.registers with
  | some j =>
    obtain rfl : j = i := by simpa [ha] using h
    exact compute_of_operandA_raise (operand_of_missing ha)
  | none =>
    obtain ⟨va, hva⟩ := exists_operand_of_none_missing m ha
    cases hb : firstMissing cfg b.registers with
    | some j =>
      obtain rfl : j = i := by simpa [ha, hb] using h
      exact compute_of_operandB_raise hva (operand_of_missing hb)
    | none =>
      obtain ⟨vb, hvb⟩ := exists_operand_of_none_missing m hb
      have hc : firstMissing cfg [c] = some i := by simpa [ha, hb] using h
      obtain ⟨hge, rfl⟩ := firstMissing_singleton_eq_some.mp hc
      exact compute_of_destination_ge hva hvb hge

/-- The registers an instruction reads are those its row of the control table selects (30_encoding.md R68, R72). -/
theorem registersRead_of_control {i : Instr} {ctl : Control} (h : decodeControl i.opcode.code = some ctl) :
    registersRead i = (ctl.aSel.operand i.slotA).registers ++ (ctl.bSel.operand i.slotB).registers := by
  cases i <;> cases h <;> rfl

theorem firstBadIndex_of_control {i : Instr} {ctl : Control} (h : decodeControl i.opcode.code = some ctl) :
    firstBadIndex cfg i =
      firstMissing cfg ((ctl.aSel.operand i.slotA).registers ++ (ctl.bSel.operand i.slotB).registers ++ [i.slotC]) := by
  rw [firstBadIndex, registersRead_of_control h, firstMissing]

end Sys2Proof.Machine

namespace Sys2Proof.Proofs

open Sys2Proof.Machine

/-- Settles O6: the instruction's row of the control table selects the registers it reads, and its work checks them in
their order, then slot C (`compute_of_missing`). -/
theorem outOfRangeIndexRaisesInOrder : Obligations.OutOfRangeIndexRaisesInOrder := by
  intro cfg m i j hbad
  obtain ⟨ctl, hctl, hexec⟩ := exec_eq_perform_control i
  rw [firstBadIndex_of_control hctl] at hbad
  exact (hexec _).trans (perform_of_raise (compute_of_missing hbad))

end Sys2Proof.Proofs
end

section
/-! Runs under a breakpoint: what it answers at a step event, what one step then does to the count of executions, and the
statement O39 by induction on the fuel (60_exceptions.md R149). -/

namespace Sys2Proof.Machine

variable {cfg : Config} {m : Block cfg} {k : Nat} {pre : List Nat}

/-- A breakpoint looks at the newest step event alone (60_exceptions.md R149). -/
theorem oracleStop_breakpoint (answers : List StopAnswer) (e : StepEvent) (events : List Event) :
    oracleStop (breakpoint k) answers (.step e :: events) = if e.ip = k then .stop else .proceed := by
  simp [oracleStop, breakpoint, stopWhen]

theorem breakpoint_sampled_eq_stop_iff {answers : List StopAnswer} :
    oracleStop (breakpoint k) answers (m.sampled pre).events = .stop ↔ m.ip.toNat = k := by
  simp [Block.sampled, oracleStop_breakpoint]

theorem breakpoint_sampled_eq_proceed_iff {answers : List StopAnswer} :
    oracleStop (breakpoint k) answers (m.sampled pre).events = .proceed ↔ m.ip.toNat ≠ k := by
  simp [Block.sampled, oracleStop_breakpoint]

/-- The step event of a completed instruction counts one execution at its own address (60_exceptions.md R149 (c)). -/
theorem executionCount_sampled (m : Block cfg) (pre : List Nat) (k : Nat) :
    executionCount (stepEvents (m.sampled pre).events) k =
      executionCount (stepEvents m.events) k + if m.ip.toNat = k then 1 else 0 := by
  simp [Block.sampled, executionCount, List.countP_singleton]

/-- A running block that has emitted step events only, none of them at `k`. -/
structure Block.Awaits (m : Block cfg) (k : Nat) : Prop where
  running : m.status = .running
  steps : onlySteps m.events
  unmet : executionCount (stepEvents m.events) k = 0

/-- The block stands at `k`, has executed it exactly once, and has emitted step events only. -/
structure Block.Met (m : Block cfg) (k : Nat) : Prop where
  ip_eq : m.ip.toNat = k
  once : executionCount (stepEvents m.events) k = 1
  steps : onlySteps m.events

/-- A step under a breakpoint at `k` that is not met yet goes on without meeting it, or ends the run, and STOPPED only at
`k` (45_execution_loop.md R118). -/
theorem StepEnd.awaits_or_met {m' : Block cfg} (hend : StepEnd (oracleStop (breakpoint k)) m m') (hm : m.Awaits k) :
    m'.Awaits k ∨ (m'.status ≠ .running ∧ (m'.status = .stopped → m'.Met k)) := by
  obtain ⟨hrun, hsteps, hunmet⟩ := hm
  cases hend with
  | raised | halted | raisedAfterEvent => exact .inr ⟨nofun, nofun⟩
  | stopped regs pre hin hask =>
    have hip : (m.withRegs regs).ip.toNat = k := breakpoint_sampled_eq_stop_iff.mp hask
    have hcount := executionCount_sampled (m.withRegs regs) pre k
    rw [if_pos hip] at hcount
    exact .inr ⟨nofun, fun _ => ⟨hip, hcount.trans (congrArg (· + 1) hunmet), onlySteps_cons_step _ hsteps⟩⟩
  | advanced regs pre v hin hask =>
    have hip : (m.withRegs regs).ip.toNat ≠ k := breakpoint_sampled_eq_proceed_iff.mp hask
    have hcount := executionCount_sampled (m.withRegs regs) pre k
    rw [if_neg hip] at hcount
    exact .inl ⟨hrun, onlySteps_cons_step _ hsteps, hcount.trans hunmet⟩

/-- A debug-run under a breakpoint that ends STOPPED has met it (60_exceptions.md R149). -/
theorem met_of_debugRun_stopped {fuel : Nat} {s t : State} (hs : s.block.Awaits k)
    (hended : debugRun (breakpoint k) fuel s = .ended t) (hstopped : t.block.status = .stopped) : t.block.Met k := by
  induction fuel generalizing s with
  | zero => exact absurd ((runWith_zero_of_running _ hs.running).symm.trans hended) nofun
  | succ fuel ih =>
    obtain ⟨m', hstep, hend⟩ := stepWith_stepEnd (oracleStop (breakpoint k)) hs.running
    have hrest : debugRun (breakpoint k) fuel ⟨s.cfg, m'⟩ = .ended t :=
      (runWith_succ_of_running _ hs.running hstep).symm.trans hended
    rcases hend.awaits_or_met hs with hawaits | ⟨hover, hmet⟩
    · exact ih hawaits hrest
    · cases (runWith_of_not_running _ fuel hover).symm.trans hrest
      exact hmet hstopped

end Sys2Proof.Machine

namespace Sys2Proof.Proofs

open Sys2Proof.Machine

/-- Settles O39: the run starts with the breakpoint unmet, and ends STOPPED only by meeting it
(`met_of_debugRun_stopped`). -/
theorem breakpointStopsAfterItsInstruction : Obligations.BreakpointStopsAfterItsInstruction := by
  intro fuel k s t hrun hsteps hunmet hended hstopped
  obtain ⟨hip, honce, hall⟩ := met_of_debugRun_stopped ⟨hrun, hsteps, hunmet⟩ hended hstopped
  exact ⟨hip, honce, hall⟩

end Sys2Proof.Proofs
end

section
/-! Fault entry and the two ways step 2 comes to it, and the statements O16, O24 and O15 (60_exceptions.md R131 to R134). -/

namespace Sys2Proof.Machine

variable {cfg : Config} {m m1 : Block cfg} {source : StopSource}

/-- A word that does not decode is refused before any operand is read (60_exceptions.md R134). -/
theorem stepWith_of_illegal {w : InstrWord} (hrun : m.status = .running) (hm1 : m.mirrorIp = .ok m1)
    (hfetch : m1.fetch = some w) (hop : 16 ≤ (opField w).toNat) :
    stepWith source ⟨cfg, m⟩ = .next ⟨cfg, m1.takeFault (.illegalInstruction (opField w))⟩ := by
  simp only [stepWith, hrun, if_true, hm1, hfetch, runWord, decode_of_ge hop]

/-- "A `raise` anywhere ends the step" (45_execution_loop.md R113). -/
theorem stepWith_of_raises {i : Instr} {r : Raise} (hstand : m.standsAt m1 i) (hraise : raisesOn m1 i r) :
    stepWith source ⟨cfg, m⟩ = .next ⟨cfg, m1.takeFault r⟩ := by
  rw [stepWith_of_standsAt hstand, hraise]
  exact afterInstruction_of_not_running source _ nofun

theorem takeFault_eq_faultedBlock (m : Block cfg) (r : Raise) :
    m.takeFault r = faultedBlock m r.cause r.cause.code (r.info cfg.xlen) := rfl

end Sys2Proof.Machine

namespace Sys2Proof.Proofs

open Sys2Proof.Machine

/-- Settles O16: the branch of `stepWith` whose word does not decode; validation leaves no such word in a program. -/
theorem illegalWordFaultsBeforeOperands : Obligations.IllegalWordFaultsBeforeOperands := by
  refine ⟨fun cfg m m1 w => stepWith_of_illegal, fun cfg p hwf w hw => ?_⟩
  obtain ⟨-, -, hlegal⟩ := hwf
  exact exists_decode_ok_of_lt (hlegal w hw)

/-- Settles O24: the step ends in fault entry on the block step 1 left, and step 1 changes registers only. -/
theorem raiseEndsTheStep : Obligations.RaiseEndsTheStep := by
  intro cfg m m1 i r hstand hraise
  have hstep : step ⟨cfg, m⟩ = .next ⟨cfg, m1.takeFault r⟩ := stepWith_of_raises hstand hraise
  obtain ⟨regs, rfl⟩ := exists_withRegs_of_mirrorIp (mirrorIp_of_standsAt hstand)
  exact ⟨hstep, rfl, rfl, _, rfl⟩

/-- Settles O15: each cause with its code and its information (`takeFault_eq_faultedBlock`); an `ip` is recorded whole
(`takeFault_ipOverflow`). -/
theorem faultEntryRecordsTheFault : Obligations.FaultEntryRecordsTheFault := fun _ m _ _ _ k =>
  ⟨takeFault_eq_faultedBlock m _, takeFault_eq_faultedBlock m _, takeFault_eq_faultedBlock m _, takeFault_ipOverflow m k⟩

end Sys2Proof.Proofs
end

section
/-! What accepting a text says of each part of the loader, and the statement O40 about the programs it accepts
(30_encoding.md R80 to R85; 70_reset_and_hazards.md R156). -/

namespace Sys2Proof.Machine

/-- Work in two parts succeeds only where each part does. -/
theorem exists_ok_of_bind_eq_ok {ε α β : Type} {x : Except ε α} {f : α → Except ε β} {b : β} (h : x >>= f = .ok b) :
    ∃ a, x = .ok a ∧ f a = .ok b := by
  cases x with
  | error e => cases h
  | ok a => exact ⟨a, rfl, h⟩

/-- The assembler writes the opcode's own number into `OP` (30_encoding.md R85). -/
theorem opField_lt_of_assemble {i : SourceInstr} {w : InstrWord} (h : assemble i = .ok w) :
    (opField w).toNat < 16 := by
  by_cases hwf : i.wf
  · obtain rfl := Except.ok.inj ((assemble_of_wf hwf).symm.trans h)
    obtain ⟨hop, -⟩ := Laws.fields_of_wordOfFields i.opcode.code (BitVec.ofNat 32 i.inputA) (BitVec.ofNat 32 i.inputB)
      (BitVec.ofNat 32 i.output)
    rw [hop]
    exact Laws.code_lt i.opcode
  · exact absurd ((assemble_of_not_wf hwf).symm.trans h) nofun

/-- Every word the lines give is one the assembler gave (30_encoding.md R82, R85). -/
theorem opField_lt_of_assembleLines {lines : List Line} {words : List InstrWord} (h : assembleLines lines = .ok words) :
    ∀ w ∈ words, (opField w).toNat < 16 := by
  induction lines generalizing words with
  | nil =>
    obtain rfl := Except.ok.inj h
    exact List.forall_mem_nil _
  | cons line rest ih =>
    cases line with
    | blank => exact ih h
    | directive p => cases h
    | instruction i =>
      obtain ⟨w, hw, htail⟩ := exists_ok_of_bind_eq_ok h
      obtain ⟨ws, hws, hcons⟩ := exists_ok_of_bind_eq_ok htail
      obtain rfl := Except.ok.inj hcons
      exact List.forall_mem_cons.mpr ⟨opField_lt_of_assemble hw, ih hws⟩

/-- Everything `programOf` accepts: one word at least, kept as given (30_encoding.md R84). -/
theorem programOf_ok {ipr : Option Field} {words : List InstrWord} {p : Program} (h : programOf ipr words = .ok p) :
    words ≠ [] ∧ p = { words := words, ipr := ipr } := by
  cases words with
  | nil => cases h
  | cons w ws => exact ⟨nofun, (Except.ok.inj h).symm⟩

/-- Every program built holds the words of some lines, with or without a directive before them, and is not empty
(30_encoding.md R81, R84). -/
theorem buildProgram_ok {lines : List Line} {p : Program} (h : buildProgram lines = .ok p) :
    p.words ≠ [] ∧ ∃ rest, assembleLines rest = .ok p.words := by
  unfold buildProgram at h
  split at h
  case h_1 q rest _ =>
    obtain ⟨words, hwords, hbound⟩ := exists_ok_of_bind_eq_ok h
    obtain ⟨ipr, -, hprog⟩ := exists_ok_of_bind_eq_ok hbound
    obtain ⟨hne, rfl⟩ := programOf_ok hprog
    exact ⟨hne, rest, hwords⟩
  case h_2 =>
    obtain ⟨words, hwords, hprog⟩ := exists_ok_of_bind_eq_ok h
    obtain ⟨hne, rfl⟩ := programOf_ok hprog
    exact ⟨hne, _, hwords⟩

end Sys2Proof.Machine

namespace Sys2Proof.Proofs

open Sys2Proof.Machine

/-- Settles O40: an accepted program was built from lines (`buildProgram_ok`), whose words all come from the assembler
(`opField_lt_of_assembleLines`). -/
theorem loadedProgramsAreValid : Obligations.LoadedProgramsAreValid := by
  intro isComment text p h
  obtain ⟨lines, -, hbuild⟩ := exists_ok_of_bind_eq_ok h
  obtain ⟨hne, rest, hwords⟩ := buildProgram_ok hbuild
  have hlegal := opField_lt_of_assembleLines hwords
  have hlen : 1 ≤ p.length := List.length_pos_iff.mpr hne
  exact ⟨hlen, fun w hw => exists_decode_ok_of_lt (hlegal w hw), fun cfg hmax => ⟨hlen, hmax, hlegal⟩⟩

end Sys2Proof.Proofs
end

section
/-! What a step does not see, how it ends, and where RESET puts the block: the statements O33, O26, O29 and O31
(70_reset_and_hazards.md R153 to R158, R165). -/

namespace Sys2Proof.Machine

variable {cfg : Config} {m m1 : Block cfg} {source : StopSource}

/-- What stood in the bound register before step 1 is overwritten by it (45_execution_loop.md R111). -/
theorem mirrorIp_of_set_bound {p : Field} (hipr : m.prog.ipr = some p) (hp : p.toNat < cfg.nreg) (v : Word cfg.xlen) :
    (m.withRegs (m.regs.set p.toNat v hp)).mirrorIp = .ok (m.withRegs (m.regs.set p.toNat m.ip hp)) := by
  have hmirror : (m.withRegs (m.regs.set p.toNat v hp)).mirrorIp = _ := mirrorIp_of_bound hipr
  rw [hmirror, writeReg_of_lt _ _ hp]
  simp only [Block.withRegs, Vector.set_set]

/-- After step 1 a step looks at nothing but the block step 1 left (45_execution_loop.md R110). -/
theorem stepWith_congr_of_mirrorIp {m' : Block cfg} (hrun : m.status = .running) (hrun' : m'.status = .running)
    (h : m.mirrorIp = .ok m1) (h' : m'.mirrorIp = .ok m1) : stepWith source ⟨cfg, m⟩ = stepWith source ⟨cfg, m'⟩ := by
  simp only [stepWith, hrun, hrun', h, h']

/-- A running block of a run that has emitted nothing and recorded no fault is consistent (10_state.md R32). -/
theorem consistent_of_no_events (hrun : m.status = .running) (hrecord : m.noFaultRecord) (hevents : m.events = []) :
    m.consistent := by
  refine (consistent_iff_of_running hrun).mpr ⟨hrecord, ?_⟩
  rw [hevents]
  exact List.forall_mem_nil _

end Sys2Proof.Machine

namespace Sys2Proof.Proofs

open Sys2Proof.Machine

/-- Settles O33: both blocks come out of step 1 as one block (`mirrorIp_of_set_bound`); a block that does not run
answers its STATE, which no register changes. -/
theorem initialBoundRegisterIsNeverObserved : Obligations.InitialBoundRegisterIsNeverObserved := by
  intro cfg m p hp v v' source hipr
  by_cases hrun : m.status = .running
  · exact stepWith_congr_of_mirrorIp hrun hrun (mirrorIp_of_set_bound hipr hp v) (mirrorIp_of_set_bound hipr hp v')
  · have hstuck (regs : Vector (Word cfg.xlen) cfg.nreg) :
        stepWith source ⟨cfg, m.withRegs regs⟩ = .fault (.stepNotEnabled m.status) :=
      stepWith_of_not_running source hrun
    exact (hstuck _).trans (hstuck _).symm

/-- Settles O26: the endings of a step (`stepWith_stepEnd`), each with the events it adds. -/
theorem everyEnabledStepEnds : Obligations.EveryEnabledStepEnds := by
  intro cfg m hrun
  obtain ⟨m', hstep, hend⟩ := stepWith_stepEnd queuedStop hrun
  refine ⟨m', hstep, ?_⟩
  cases hend with
  | advanced regs pre v => exact .inl ⟨hrun, _, rfl⟩
  | halted regs => exact .inr (.inl ⟨rfl, rfl⟩)
  | stopped regs pre => exact .inr (.inr (.inl ⟨rfl, _, rfl⟩))
  | raised regs r => exact .inr (.inr (.inr ⟨rfl, _, _, .inl rfl⟩))
  | raisedAfterEvent regs pre r => exact .inr (.inr (.inr ⟨rfl, _, _, .inr ⟨_, rfl⟩⟩))

/-- Settles O29: reset leaves a running block with an empty record and no events. -/
theorem resetStateIsConsistent : Obligations.ResetStateIsConsistent :=
  show State.reset.consistent from consistent_of_no_events rfl ⟨rfl, rfl, rfl⟩ rfl

/-- Settles O31: RESET is written field by field, and the block it leaves runs with an empty record and no events. -/
theorem resetInputSetsEveryPieceOfState : Obligations.ResetInputSetsEveryPieceOfState := fun s prog regs =>
  ⟨rfl, consistent_of_no_events (resetInput_status s prog regs)
    ⟨resetInput_faultCause s prog regs, resetInput_faultIp s prog regs, resetInput_faultInfo s prog regs⟩
    (resetInput_events s prog regs)⟩

end Sys2Proof.Proofs
end
